-- ==== Sys2Proof/Word.lean ====
section
/-! DEFINITION. The units of data of the SCE (spec 00_scope.md R7, 20_memory.md R60, R70): the byte of
DIN and DOUT, the 32-bit word of CMD and REG, and the 16-byte sequence of a key, key-id, IV or cipher
block, with their bitwise exclusive or. Nothing here decides a byte order. -/

namespace Sys2Proof

/-- A byte: the unit of DIN and DOUT (R60). -/
abbrev Byte := BitVec 8

/-- A 32-bit word: the unit of CMD and REG (R60, R90). -/
abbrev Word := BitVec 32

/-- Four consecutive bytes, index 0 first: one column of the AES state (R211), one word `w[i]` of the
key expansion (R222), the bytes of one payload word (R93). -/
structure Quad where
  r0 : Byte
  r1 : Byte
  r2 : Byte
  r3 : Byte
deriving DecidableEq, Repr

/-- A byte sequence of length 16, held as its four consecutive runs of four bytes: `X[4c + r]` is row
`r` of column `c` (R7, R21, R211). It is a byte sequence, never a number. -/
structure Block where
  c0 : Quad
  c1 : Quad
  c2 : Quad
  c3 : Quad
deriving DecidableEq, Repr

/-- Four zero bytes, the `0^4` of R7. -/
def Quad.zero : Quad := ⟨0, 0, 0, 0⟩

/-- Sixteen zero bytes, the `0^16` of R7. -/
def Block.zero : Block := ⟨Quad.zero, Quad.zero, Quad.zero, Quad.zero⟩

/-- Bytewise exclusive or (R7). -/
def Quad.xor (a b : Quad) : Quad :=
  ⟨a.r0 ^^^ b.r0, a.r1 ^^^ b.r1, a.r2 ^^^ b.r2, a.r3 ^^^ b.r3⟩

/-- Bytewise exclusive or (R7). -/
def Block.xor (a b : Block) : Block :=
  ⟨a.c0.xor b.c0, a.c1.xor b.c1, a.c2.xor b.c2, a.c3.xor b.c3⟩

/-- The bytes in index order. -/
def Quad.toList (q : Quad) : List Byte := [q.r0, q.r1, q.r2, q.r3]

/-- The bytes in index order, `X[0]` first. -/
def Block.toList (b : Block) : List Byte :=
  b.c0.toList ++ b.c1.toList ++ b.c2.toList ++ b.c3.toList

end Sys2Proof
end

