-- ==== Sys2Proof/Config.lean ====
section
/-! DEFINITION. What an implementation of the SCE fixes: the constant sizes (spec 00_scope.md R5) and
the three OPEN parameters of R6 (92_eei_decisions.md D12, D15, D16). The spec leaves the parameters as
arguments of the model; the State carries one value of `Params`, no step changes it, and every
statement over all states therefore speaks of all eight combinations (DESIGN CHOICE,
notes/assumptions/1.md). -/

namespace Sys2Proof

/-- `CTR_CARRY_BITS` (R6, R170): how many low-order bits of the counter block take the carry. -/
inductive CarryBits where
  | bits64
  | bits128
deriving DecidableEq, Repr

/-- The three OPEN parameters of R6. -/
structure Params where
  /-- `CTR_CARRY_BITS` (R170, R176). -/
  ctrCarryBits : CarryBits
  /-- `PAT_RANGE_RESTART` (R196): the pattern position restarts at every encrypted range. -/
  patRangeRestart : Bool
  /-- `CBC_RANGE_RESTART` (R197): with the pattern disabled, CHAIN is reloaded at every range. -/
  cbcRangeRestart : Bool
deriving DecidableEq, Repr

/-- The default column of R6: 64, true, false. -/
def Params.defaults : Params := ⟨.bits64, true, false⟩

/-- The cipher block length in bytes (R5). -/
def Config.blockLen : Nat := 16

end Sys2Proof
end

