-- ==== Sys2Proof/Syntax.lean ====
section
/-! DEFINITION. The eight commands (spec 30_encoding.md R90, R95), one constructor per row of
spec/opcode_table.json, with the operands of R92 and R94 already separated. -/

namespace Sys2Proof

/-- The 2-bit SCHM operand of CFG (R94): the four scheme names. -/
inductive SchemeName where
  | cenc
  | cbcs
  | cens
  | cbc1
deriving DecidableEq, Repr

/-- The commands (R90, R95). -/
inductive Instr where
  /-- NOP (R120). -/
  | nop
  /-- LDKID `kid` (R121). -/
  | ldkid (kid : Block)
  /-- LDKEY `key` (R122). -/
  | ldkey (key : Block)
  /-- CFG `SCHM, CRYPT, SKIP` (R123). -/
  | cfg (schm : SchemeName) (crypt skip : Byte)
  /-- BEGIN (R141): the IV16 and S bits of the header, SLEN, and the stored IV `v` of 8 or 16 bytes. -/
  | beginSample (iv16 sub : Bool) (slen : Word) (iv : List Byte)
  /-- SUB `CLEAR, ENC` (R142). -/
  | sub (clear : BitVec 16) (enc : Word)
  /-- END (R143). -/
  | endSample
  /-- FIN (R144). -/
  | fin
deriving DecidableEq, Repr

end Sys2Proof
end

