-- ==== Sys2Proof/WellFormed.lean ====
section
/-! DEFINITION. Which command terms an encoding exists for (spec 30_encoding.md R92, R94, R99). Every
value of every other operand field is legal (R99 (d)) and has a type of exactly its width, so the one
check is that BEGIN's stored IV has the length its IV16 bit announces. -/

namespace Sys2Proof

/-- How many bytes the stored IV has: 16 when IV16 = 1, else 8 (R92, R94). -/
def storedIvLen (iv16 : Bool) : Nat := if iv16 then 16 else 8

/-- The command has an encoding (R92). -/
def Instr.wf : Instr → Bool
  | .nop => true
  | .ldkid _ => true
  | .ldkey _ => true
  | .cfg _ _ _ => true
  | .beginSample iv16 _ _ iv => iv.length == storedIvLen iv16
  | .sub _ _ => true
  | .endSample => true
  | .fin => true

end Sys2Proof
end

