-- ==== Sys2Proof/Decode.lean ====
section
/-! DEFINITION. Byte packing (spec 30_encoding.md R93), the decoder (R96, R97), the encoder (R91 to
R93, R101) and the opcode map (R95). The decoder is total on every list of words and rejects by name;
it looks at no register (R96, R100). -/

namespace Sys2Proof

/-! ### Byte packing: the first byte is the most significant (R7 `be32`, R65, R93) -/

/-- The word that carries four bytes, the first in bits[31:24] (R93). -/
def wordOfQuad (q : Quad) : Word := q.r0 ++ q.r1 ++ q.r2 ++ q.r3

/-- `be32(w)`: the four bytes of a word, bits[31:24] first (R7, R93). -/
def quadOfWord (w : Word) : Quad :=
  ⟨w.extractLsb' 24 8, w.extractLsb' 16 8, w.extractLsb' 8 8, w.extractLsb' 0 8⟩

/-- The 16 bytes carried in four payload words (R93). -/
def blockOfWords (w0 w1 w2 w3 : Word) : Block :=
  ⟨quadOfWord w0, quadOfWord w1, quadOfWord w2, quadOfWord w3⟩

/-- The four payload words that carry 16 bytes (R93). -/
def wordsOfBlock (b : Block) : List Word :=
  [wordOfQuad b.c0, wordOfQuad b.c1, wordOfQuad b.c2, wordOfQuad b.c3]

/-- The bytes carried in a list of payload words (R93). -/
def bytesOfWords : List Word → List Byte
  | [] => []
  | w :: ws => (quadOfWord w).toList ++ bytesOfWords ws

/-- The payload words that carry a byte sequence of length a multiple of 4 (R93). -/
def wordsOfBytes : List Byte → List Word
  | b0 :: b1 :: b2 :: b3 :: bs => wordOfQuad ⟨b0, b1, b2, b3⟩ :: wordsOfBytes bs
  | _ => []

/-- The four bytes at the head of a sequence, zero bytes where it is shorter. -/
def quadOfBytes (bs : List Byte) : Quad :=
  ⟨bs.getD 0 0, bs.getD 1 0, bs.getD 2 0, bs.getD 3 0⟩

/-- The 16 bytes at the head of a sequence, zero bytes where it is shorter. -/
def blockOfBytes (bs : List Byte) : Block :=
  ⟨quadOfBytes bs, quadOfBytes (bs.drop 4), quadOfBytes (bs.drop 8), quadOfBytes (bs.drop 12)⟩

/-! ### Header words (R91, R94, R96) -/

/-- A decoded header word: which command it selects and the operand fields of the header itself. -/
inductive Header where
  | nop
  | ldkid
  | ldkey
  | cfg (schm : SchemeName) (crypt skip : Byte)
  | beginSample (iv16 sub : Bool)
  | sub (clear : BitVec 16)
  | endSample
  | fin
deriving DecidableEq, Repr

/-- Why a list of words is no command. -/
inductive Reject where
  /-- The opcode is 0x8 to 0xF (R99 (a)). -/
  | reservedOpcode (op : BitVec 4)
  /-- A reserved bit of the header word is 1 (R99 (b)). -/
  | reservedBits (op : BitVec 4)
  /-- The header word or one of its payload words has not arrived (R97); no fault, a hold (R258). -/
  | incomplete
deriving DecidableEq, Repr

/-- The four values of SCHM (R94). -/
def schemeNameOf (b : BitVec 2) : SchemeName :=
  match b.toNat with
  | 0 => .cenc
  | 1 => .cbcs
  | 2 => .cens
  | _ => .cbc1

/-- The SCHM field of a scheme name (R94). -/
def schemeNameBits : SchemeName → BitVec 2
  | .cenc => 0
  | .cbcs => 1
  | .cens => 2
  | .cbc1 => 3

/-- The header when its reserved bits are all 0, else the rejection (R96). -/
def whenReservedZero (zero : Bool) (op : BitVec 4) (h : Header) : Except Reject Header :=
  if zero then .ok h else .error (.reservedBits op)

/-- The decode procedure of R96, total on every header word. -/
def decodeHeader (h : Word) : Except Reject Header :=
  let op : BitVec 4 := h.extractLsb' 28 4
  let allZero : Bool := h.extractLsb' 0 28 == 0
  match op.toNat with
  | 0 => whenReservedZero allZero op .nop
  | 1 => whenReservedZero allZero op .ldkid
  | 2 => whenReservedZero allZero op .ldkey
  | 3 => whenReservedZero (h.extractLsb' 26 2 == 0 && h.extractLsb' 16 8 == 0) op
          (.cfg (schemeNameOf (h.extractLsb' 24 2)) (h.extractLsb' 8 8) (h.extractLsb' 0 8))
  | 4 => whenReservedZero (h.extractLsb' 2 26 == 0) op (.beginSample (h.getLsbD 1) (h.getLsbD 0))
  | 5 => whenReservedZero (h.extractLsb' 16 12 == 0) op (.sub (h.extractLsb' 0 16))
  | 6 => whenReservedZero allZero op .endSample
  | 7 => whenReservedZero allZero op .fin
  | _ => .error (.reservedOpcode op)

/-- `npay`: how many payload words follow the header word (R97); a function of the header alone. -/
def npay : Header → Nat
  | .nop => 0
  | .ldkid => 4
  | .ldkey => 4
  | .cfg _ _ _ => 0
  | .beginSample iv16 _ => if iv16 then 5 else 3
  | .sub _ => 1
  | .endSample => 0
  | .fin => 0

/-! ### Commands (R92, R97) -/

/-- The command of a header and its payload words `P0, P1, …` (R92). -/
def assembleInstr (h : Header) (p : List Word) : Instr :=
  match h with
  | .nop => .nop
  | .ldkid => .ldkid (blockOfWords (p.getD 0 0) (p.getD 1 0) (p.getD 2 0) (p.getD 3 0))
  | .ldkey => .ldkey (blockOfWords (p.getD 0 0) (p.getD 1 0) (p.getD 2 0) (p.getD 3 0))
  | .cfg schm crypt skip => .cfg schm crypt skip
  | .beginSample true s => .beginSample true s (p.getD 0 0)
      (bytesOfWords [p.getD 1 0, p.getD 2 0, p.getD 3 0, p.getD 4 0])
  | .beginSample false s => .beginSample false s (p.getD 0 0)
      (bytesOfWords [p.getD 1 0, p.getD 2 0])
  | .sub clear => .sub clear (p.getD 0 0)
  | .endSample => .endSample
  | .fin => .fin

/-- The command at the head of a list of words. An undecodable header is rejected at once, whatever
follows it; a decodable one whose payload is not all there is `incomplete` (R97). -/
def decode : List Word → Except Reject Instr
  | [] => .error .incomplete
  | h :: p =>
    match decodeHeader h with
    | .error r => .error r
    | .ok hd => if p.length < npay hd then .error .incomplete else .ok (assembleInstr hd p)

/-- How many words the command occupies: `1 + npay` (R97). -/
def Instr.words : Instr → Nat
  | .nop => 1
  | .ldkid _ => 5
  | .ldkey _ => 5
  | .cfg _ _ _ => 1
  | .beginSample iv16 _ _ _ => if iv16 then 6 else 4
  | .sub _ _ => 2
  | .endSample => 1
  | .fin => 1

/-! ### The encoder (R91 to R93) -/

/-- The header word of format Z: the opcode and 28 reserved bits (R91). -/
def headerZ (op : BitVec 4) : Word := op ++ (0 : BitVec 28)

/-- The words of a command: the header word by R91, then the payload words by R92. -/
def encode : Instr → List Word
  | .nop => [headerZ 0]
  | .ldkid kid => headerZ 1 :: wordsOfBlock kid
  | .ldkey key => headerZ 2 :: wordsOfBlock key
  | .cfg schm crypt skip =>
      [(3 : BitVec 4) ++ (0 : BitVec 2) ++ schemeNameBits schm ++ (0 : BitVec 8) ++ crypt ++ skip]
  | .beginSample iv16 s slen iv =>
      ((4 : BitVec 4) ++ (0 : BitVec 26) ++ BitVec.ofBool iv16 ++ BitVec.ofBool s) ::
        slen :: wordsOfBytes iv
  | .sub clear enc => [(5 : BitVec 4) ++ (0 : BitVec 12) ++ clear, enc]
  | .endSample => [headerZ 6]
  | .fin => [headerZ 7]

/-! ### The opcode map (R95) -/

/-- One row of R95: a header word `h` selects the row when `h &&& mask = pattern`. -/
structure OpcodeRow where
  mnemonic : String
  pattern : Word
  mask : Word
deriving DecidableEq, Repr

/-- The rows of R95. -/
def opcodeMap : List OpcodeRow :=
  [⟨"NOP", 0x00000000, 0xFFFFFFFF⟩,
   ⟨"LDKID", 0x10000000, 0xFFFFFFFF⟩,
   ⟨"LDKEY", 0x20000000, 0xFFFFFFFF⟩,
   ⟨"CFG", 0x30000000, 0xFCFF0000⟩,
   ⟨"BEGIN", 0x40000000, 0xFFFFFFFC⟩,
   ⟨"SUB", 0x50000000, 0xFFFF0000⟩,
   ⟨"END", 0x60000000, 0xFFFFFFFF⟩,
   ⟨"FIN", 0x70000000, 0xFFFFFFFF⟩]

/-- The row a header word selects. -/
def OpcodeRow.selects (r : OpcodeRow) (h : Word) : Bool := h &&& r.mask == r.pattern

/-- The mnemonic of a decoded header (R95). -/
def headerMnemonic : Header → String
  | .nop => "NOP"
  | .ldkid => "LDKID"
  | .ldkey => "LDKEY"
  | .cfg _ _ _ => "CFG"
  | .beginSample _ _ => "BEGIN"
  | .sub _ => "SUB"
  | .endSample => "END"
  | .fin => "FIN"

/-! ### The host's question about one table word -/

/-- The words of the instruction whose bits are `w`, bit 0 the least significant bit of the first
word, every bit from `nbits` on zero: six words, the longest command's length (R90). -/
def tableWords (nbits w : Nat) : List Word :=
  let v := w % 2 ^ nbits
  [BitVec.ofNat 32 v, BitVec.ofNat 32 (v / 2 ^ 32), BitVec.ofNat 32 (v / 2 ^ 64),
   BitVec.ofNat 32 (v / 2 ^ 96), BitVec.ofNat 32 (v / 2 ^ 128), BitVec.ofNat 32 (v / 2 ^ 160)]

/-- The command the decoder reads from those words. -/
def decodeTableWord (nbits w : Nat) : Option Instr :=
  match decode (tableWords nbits w) with
  | .ok i => some i
  | .error _ => none

end Sys2Proof
end

