-- ==== Sys2Proof/Machine/State.lean ====
section
/-! DEFINITION. The state of one engine: every register of spec 10_state.md R20, the model-level CPC and
DIP and the contents of the three streams (R40, 20_memory.md R61 to R63), and the value of the three
OPEN parameters (00_scope.md R6). The engine has no addressable memory (R51, R77): its address spaces
are the in-order streams held here. -/

namespace Sys2Proof.Machine

/-- PHASE (R29). -/
inductive Phase where
  /-- 0: no sample open. -/
  | idle
  /-- 1: between BEGIN and END. -/
  | sample
  /-- 2: FIN executed; run over, succeeded. -/
  | done
  /-- 3: a fault was raised; run over, failed. -/
  | fault
deriving DecidableEq, Repr

/-- SCHEME (R31): 0 CENC, 1 CBCS; never an alias. -/
inductive Scheme where
  | cenc
  | cbcs
deriving DecidableEq, Repr

/-- The named faults of R240. The engine raises the last four; the first four belong to the host's
own components and share the numbering only (R241). -/
inductive FaultKind where
  | truncatedInput
  | invalidBoxHeader
  | invalidKeyHex
  | unsupportedScheme
  | malformedAuxInfo
  | missingKey
  | unalignedCipherBlock
  | illegalCommand
deriving DecidableEq, Repr

/-- The engine's state. -/
structure State where
  /-- KID, the key-id of the key slot, a tag only (R22). -/
  kid : Block
  /-- KEY, the AES-128 content key, write-only for the host (R23, R28). -/
  key : Block
  /-- IV, the current sample's IV padded to 16 bytes (R24). -/
  iv : Block
  /-- CHAIN, the CBCS chaining value (R25). -/
  chain : Block
  /-- PHASE (R29). -/
  phase : Phase
  /-- FCODE, the recorded fault code, 0 = none (R30). -/
  fcode : BitVec 4
  /-- KEYV, key valid (R26). -/
  keyv : Bool
  /-- USESUB, the sample was begun with a subsample list (R27). -/
  usesub : Bool
  /-- IV16, the stored IV was 16 bytes (R27). -/
  iv16 : Bool
  /-- SCHEME (R31). -/
  scheme : Scheme
  /-- CRYPT, crypt_byte_block (R32). -/
  crypt : Byte
  /-- SKIP, skip_byte_block (R32). -/
  skip : Byte
  /-- SLEN, the sample's length in bytes (R33). -/
  slen : Word
  /-- SPOS, bytes of the sample consumed (R34). -/
  spos : Word
  /-- ENCPOS, bytes of encrypted ranges of the sample consumed (R35). -/
  encpos : Word
  /-- PATPOS, index of the next block in its pattern group (R36). -/
  patpos : BitVec 9
  /-- SIDX, samples completed since reset modulo 2^32 (R37). -/
  sidx : Word
  /-- CMD, the command stream; the host appends at its tail (R61). -/
  cmd : List Word
  /-- CPC, the index in CMD of the next header word, a natural number of the model (R40). -/
  cpc : Nat
  /-- DIN, the input data stream; the host appends at its tail (R62). -/
  din : List Byte
  /-- DIP, the index in DIN of the next unread byte (R62). -/
  dip : Nat
  /-- DOUT, the output data stream of this run (R63). -/
  dout : List Byte
  /-- The model's own field: the value of the OPEN parameters (R6), constant (DESIGN CHOICE,
  notes/assumptions/1.md). -/
  params : Params
deriving DecidableEq, Repr

/-- Reasons to stop with no next state: there are none. Every fault of the spec is TAKEN, as a next
state in phase FAULT (R250), and a hold or a halted engine keeps its state (R9, R258, R252;
DESIGN CHOICE, notes/assumptions/2.md). Safe: nothing is cut short. -/
inductive Fault
deriving DecidableEq, Repr

/-- Reasons to give no meaning. -/
inductive Refusal where
  /-- An instruction without a meaning, rejected by name in `exec`'s arm. Safe. No arm answers it: all
  eight commands have their meaning. -/
  | notModelled (mnemonic : String)
deriving DecidableEq, Repr

/-- The machine right after reset (R280, R20): every register zero, which means IDLE, no fault, no key,
CENC, pattern disabled; CMD, DIN and the run's DOUT empty. The parameters are the spec's defaults
(R6; DESIGN CHOICE, notes/assumptions/1.md). -/
def State.reset : State where
  kid := Block.zero
  key := Block.zero
  iv := Block.zero
  chain := Block.zero
  phase := .idle
  fcode := 0
  keyv := false
  usesub := false
  iv16 := false
  scheme := .cenc
  crypt := 0
  skip := 0
  slen := 0
  spos := 0
  encpos := 0
  patpos := 0
  sidx := 0
  cmd := []
  cpc := 0
  din := []
  dip := 0
  dout := []
  params := Params.defaults

end Sys2Proof.Machine
end

