-- ==== Sys2Proof/Machine/Ops.lean ====
section
/-! DEFINITION. The named operations every command is written over: the streams (spec 20_memory.md R61
to R63), the command counter (10_state.md R40), the four step outcomes (00_scope.md R9), the order of
the checks (41_sample_control.md R140, 60_exceptions.md R248), and TAKING A FAULT (R250). There is no
return from a fault (R252): only reset leaves FAULT (Machine/HostPort.lean). -/

namespace Sys2Proof.Machine

/-! ### Step outcomes and fault entry -/

/-- The outcome of a step (R9), with the reason of a fault and of a hold. -/
inductive StepOutcome where
  /-- The command's effect is applied and CPC advances. -/
  | ok
  /-- Fault entry (R250). -/
  | fault (f : FaultKind)
  /-- `hold(cmd)`: the header word or a payload word has not arrived (R258). -/
  | holdCmd
  /-- `hold(din)`: DIN holds fewer unread bytes than the command needs (R258). -/
  | holdDin
  /-- PHASE is DONE or FAULT: no step; only reset leaves this state (R252). -/
  | halted
deriving DecidableEq, Repr

/-- The code of a fault (R240). -/
def faultCode : FaultKind → BitVec 4
  | .truncatedInput => 1
  | .invalidBoxHeader => 2
  | .invalidKeyHex => 3
  | .unsupportedScheme => 4
  | .malformedAuxInfo => 5
  | .missingKey => 6
  | .unalignedCipherBlock => 7
  | .illegalCommand => 8

/-- Fault entry, `raise F`: FCODE and PHASE are written and nothing else (R250). -/
def raise (f : FaultKind) (s : State) : State := { s with fcode := faultCode f, phase := .fault }

/-- PHASE is DONE or FAULT (R140 step 1). -/
def isHalted (s : State) : Bool := s.phase == .done || s.phase == .fault

/-- One fault check of a command: the fault it raises when it fails. -/
structure Check where
  fails : Bool
  kind : FaultKind
deriving DecidableEq, Repr

/-- The fault of the first check that fails, in the order listed (R140 step 6, R248). -/
def firstFailing : List Check → Option FaultKind
  | [] => none
  | c :: cs => if c.fails then some c.kind else firstFailing cs

/-- Steps 1 and 5 to 7 of R140 for a decoded, complete command: `legal` is its row of R98 in the
current phase, `checks` its own fault checks in order, `need` the DIN bytes it needs. -/
def judge (s : State) (legal : Bool) (checks : List Check) (need : Nat) : StepOutcome :=
  if isHalted s then .halted
  else if !legal then .fault .illegalCommand
  else
    match firstFailing checks with
    | some f => .fault f
    | none => if need == 0 || s.dip + need ≤ s.din.length then .ok else .holdDin

/-- The next state of a step with outcome `o` from `s`, where `effect` is the state with the command's
pseudocode applied: a fault is taken, a hold and a halted engine change nothing (R9, R140). -/
def settle (o : StepOutcome) (s effect : State) : State :=
  match o with
  | .ok => effect
  | .fault f => raise f s
  | .holdCmd => s
  | .holdDin => s
  | .halted => s

/-- The host's form of `settle`: every outcome of R9 has a next state (DESIGN CHOICE,
notes/assumptions/2.md). -/
def conclude (o : StepOutcome) (s effect : State) : Host.Outcome State Fault Refusal :=
  .next (settle o s effect)

/-! ### Phase legality (R98) -/

/-- Legal in IDLE only. -/
def legalInIdle (s : State) : Bool := s.phase == .idle

/-- Legal in SAMPLE only. -/
def legalInSample (s : State) : Bool := s.phase == .sample

/-! ### Streams and the command counter -/

/-- The `n` bytes `DinRead(n)` returns (R62). -/
def dinBytes (n : Nat) (s : State) : List Byte := (s.din.drop s.dip).take n

/-- `DIP <- DIP + n`, the consumption of `DinRead(n)` (R62). -/
def consume (n : Nat) (s : State) : State := { s with dip := s.dip + n }

/-- `DoutWrite(B)` (R63). -/
def doutWrite (bs : List Byte) (s : State) : State := { s with dout := s.dout ++ bs }

/-- `CPC <- CPC + n` (R40, R97). -/
def advance (n : Nat) (s : State) : State := { s with cpc := s.cpc + n }

/-- The words of CMD from CPC on: what the step decodes (R61, R97). -/
def pendingWords (s : State) : List Word := s.cmd.drop s.cpc

end Sys2Proof.Machine
end

