-- ==== Sys2Proof/Machine/Operands.lean ====
section
/-! DEFINITION. Operand assembly and the register writes of the configuration and sample operands (spec
30_encoding.md R94, 40_key_config.md R123, 41_sample_control.md R141, R147). -/

namespace Sys2Proof.Machine

/-- `IV <- v ‖ 0^(16 - len(v))` (R147): the stored bytes at the low indices, zero bytes above
(for a list of another length, in no decoded command: DESIGN CHOICE, notes/assumptions/7.md). -/
def padIv (v : List Byte) : Block := blockOfBytes v

/-- The SCHEME a scheme name selects; the aliases are resolved here (R123). -/
def schemeOf : SchemeName → Scheme
  | .cenc => .cenc
  | .cbcs => .cbcs
  | .cens => .cenc
  | .cbc1 => .cbcs

/-- The name is an alias, whose block counts are 0 whatever the command carries (R123). -/
def isAlias : SchemeName → Bool
  | .cenc => false
  | .cbcs => false
  | .cens => true
  | .cbc1 => true

/-- The block count CFG stores for a field value (R123). -/
def storedCount (schm : SchemeName) (field : Byte) : Byte := if isAlias schm then 0 else field

/-- The writes of CFG (R123). -/
def configure (schm : SchemeName) (crypt skip : Byte) (s : State) : State :=
  { s with scheme := schemeOf schm, crypt := storedCount schm crypt, skip := storedCount schm skip }

/-- The length is a whole number of cipher blocks (R67, R201). -/
def blockAligned (n : Nat) : Bool := n % Config.blockLen == 0

/-- The encrypted-range length check of R242: CBCS and not a multiple of 16. -/
def unalignedRange (s : State) (n : Nat) : Bool := s.scheme == .cbcs && !blockAligned n

end Sys2Proof.Machine
end

