-- ==== Sys2Proof/Machine/Flags.lean ====
section
/-! DEFINITION. Every flag and status field of the engine (spec 10_state.md R26, R27, R29 to R31, R46, R47):
the writes of KEYV together with KEY, of USESUB and IV16, and the numbers PHASE and SCHEME read as. No
command computes an arithmetic condition (R27). -/

namespace Sys2Proof.Machine

/-- KEY and KEYV of LDKEY (R122). -/
def loadKey (key : Block) (s : State) : State := { s with key := key, keyv := true }

/-- KEY and KEYV of LDKID, FIN and reset: an empty key slot (R26, R121, R144). -/
def clearKey (s : State) : State := { s with key := Block.zero, keyv := false }

/-- USESUB and IV16 of BEGIN (R27). -/
def setSampleFlags (iv16 sub : Bool) (s : State) : State := { s with iv16 := iv16, usesub := sub }

/-- The number of a PHASE (R29). -/
def phaseBits : Phase → BitVec 2
  | .idle => 0
  | .sample => 1
  | .done => 2
  | .fault => 3

/-- The number of a SCHEME (R31). -/
def schemeBit : Scheme → BitVec 1
  | .cenc => 0
  | .cbcs => 1

/-- STATUS, register number 0x00 (R46). -/
def statusWord (s : State) : Word :=
  (0 : BitVec 20) ++ s.fcode ++ (0 : BitVec 3) ++ BitVec.ofBool s.iv16 ++ BitVec.ofBool s.usesub
    ++ BitVec.ofBool s.keyv ++ phaseBits s.phase

/-- CONFIG, register number 0x01 (R46). -/
def configWord (s : State) : Word :=
  (0 : BitVec 7) ++ schemeBit s.scheme ++ (0 : BitVec 8) ++ s.crypt ++ s.skip

/-- The `done` output (R47). -/
def doneOutput (s : State) : Bool := s.phase == .done

/-- The `fault` output (R47). -/
def faultOutput (s : State) : Bool := s.phase == .fault

end Sys2Proof.Machine
end

