-- ==== Sys2Proof/Machine/KeyConfig.lean ====
section
/-! DEFINITION. The key and configuration commands NOP, LDKID, LDKEY, CFG (spec 40_key_config.md R120 to
R123). For each: its outcome by the common step (41_sample_control.md R140), its effect, its meaning. -/

namespace Sys2Proof.Machine

/-- NOP is legal in IDLE and SAMPLE and has no check (R98, R120). -/
def nopOutcome (s : State) : StepOutcome := judge s true [] 0

/-- NOP only advances CPC (R120). -/
def nopEffect (s : State) : State := advance Instr.nop.words s

/-- NOP (R120). -/
def execNop (s : State) : Host.Outcome State Fault Refusal :=
  conclude (nopOutcome s) s (nopEffect s)

/-- LDKID is legal in IDLE (R98, R121). -/
def ldkidOutcome (s : State) : StepOutcome := judge s (legalInIdle s) [] 0

/-- KID is loaded and the key slot emptied (R121). -/
def ldkidEffect (kid : Block) (s : State) : State :=
  advance (Instr.ldkid kid).words (clearKey { s with kid := kid })

/-- LDKID (R121). -/
def execLdkid (kid : Block) (s : State) : Host.Outcome State Fault Refusal :=
  conclude (ldkidOutcome s) s (ldkidEffect kid s)

/-- LDKEY is legal in IDLE (R98, R122). -/
def ldkeyOutcome (s : State) : StepOutcome := judge s (legalInIdle s) [] 0

/-- KEY is loaded and KEYV set (R122). -/
def ldkeyEffect (key : Block) (s : State) : State :=
  advance (Instr.ldkey key).words (loadKey key s)

/-- LDKEY (R122). -/
def execLdkey (key : Block) (s : State) : Host.Outcome State Fault Refusal :=
  conclude (ldkeyOutcome s) s (ldkeyEffect key s)

/-- CFG is legal in IDLE (R98, R123). -/
def cfgOutcome (s : State) : StepOutcome := judge s (legalInIdle s) [] 0

/-- SCHEME, CRYPT and SKIP are written (R123). -/
def cfgEffect (schm : SchemeName) (crypt skip : Byte) (s : State) : State :=
  advance (Instr.cfg schm crypt skip).words (configure schm crypt skip s)

/-- CFG (R123). -/
def execCfg (schm : SchemeName) (crypt skip : Byte) (s : State) :
    Host.Outcome State Fault Refusal :=
  conclude (cfgOutcome s) s (cfgEffect schm crypt skip s)

end Sys2Proof.Machine
end

