-- ==== Sys2Proof/Machine/Aes.lean ====
section
/-! DEFINITION. The AES-128 block cipher, forward and inverse (spec 44_aes128_block.md R210 to R229,
92_eei_decisions.md D35). The spec marks the whole algorithm as general knowledge; this file takes it
as the spec writes it (PRESUMED, notes/assumptions/6.md). A `Block` is the state: column `c` is `B[4c .. 4c+3]` (R211). -/

namespace Sys2Proof.Machine

/-! ### The field (R210) -/

/-- Multiplication by `x` modulo `x^8 + x^4 + x^3 + x + 1` (R210). -/
def xtime (a : Byte) : Byte := if a.getLsbD 7 then (a <<< 1) ^^^ 0x1b else a <<< 1

/-- The sum of `a·x^i` over the lowest `n` bits `i` of `b` that are 1. -/
def gmulBits : Nat → Byte → Byte → Byte
  | 0, _, _ => 0
  | n + 1, a, b => (if b.getLsbD 0 then a else 0) ^^^ gmulBits n (xtime a) (b >>> 1)

/-- `a • b`, multiplication of bytes (R210). -/
def gmul (a b : Byte) : Byte := gmulBits 8 a b

/-- `a • 0x02` (R210). -/
def mul02 (a : Byte) : Byte := xtime a
/-- `a • 0x03` (R210). -/
def mul03 (a : Byte) : Byte := xtime a ^^^ a
/-- `a • 0x09` (R210). -/
def mul09 (a : Byte) : Byte := xtime (xtime (xtime a)) ^^^ a
/-- `a • 0x0b` (R210). -/
def mul0b (a : Byte) : Byte := xtime (xtime (xtime a)) ^^^ xtime a ^^^ a
/-- `a • 0x0d` (R210). -/
def mul0d (a : Byte) : Byte := xtime (xtime (xtime a)) ^^^ xtime (xtime a) ^^^ a
/-- `a • 0x0e` (R210). -/
def mul0e (a : Byte) : Byte := xtime (xtime (xtime a)) ^^^ xtime (xtime a) ^^^ xtime a

/-! ### Tables (R215 to R217), each in four pieces of four rows -/

/-- Rows of the table (R215, R216), in the spec's order. -/
def sboxRows0 : List (List Byte) :=
  [[0x63, 0x7c, 0x77, 0x7b, 0xf2, 0x6b, 0x6f, 0xc5, 0x30, 0x01, 0x67, 0x2b, 0xfe, 0xd7, 0xab, 0x76],
   [0xca, 0x82, 0xc9, 0x7d, 0xfa, 0x59, 0x47, 0xf0, 0xad, 0xd4, 0xa2, 0xaf, 0x9c, 0xa4, 0x72, 0xc0],
   [0xb7, 0xfd, 0x93, 0x26, 0x36, 0x3f, 0xf7, 0xcc, 0x34, 0xa5, 0xe5, 0xf1, 0x71, 0xd8, 0x31, 0x15],
   [0x04, 0xc7, 0x23, 0xc3, 0x18, 0x96, 0x05, 0x9a, 0x07, 0x12, 0x80, 0xe2, 0xeb, 0x27, 0xb2, 0x75]]

/-- Rows of the table (R215, R216), in the spec's order. -/
def sboxRows1 : List (List Byte) :=
  [[0x09, 0x83, 0x2c, 0x1a, 0x1b, 0x6e, 0x5a, 0xa0, 0x52, 0x3b, 0xd6, 0xb3, 0x29, 0xe3, 0x2f, 0x84],
   [0x53, 0xd1, 0x00, 0xed, 0x20, 0xfc, 0xb1, 0x5b, 0x6a, 0xcb, 0xbe, 0x39, 0x4a, 0x4c, 0x58, 0xcf],
   [0xd0, 0xef, 0xaa, 0xfb, 0x43, 0x4d, 0x33, 0x85, 0x45, 0xf9, 0x02, 0x7f, 0x50, 0x3c, 0x9f, 0xa8],
   [0x51, 0xa3, 0x40, 0x8f, 0x92, 0x9d, 0x38, 0xf5, 0xbc, 0xb6, 0xda, 0x21, 0x10, 0xff, 0xf3, 0xd2]]

/-- Rows of the table (R215, R216), in the spec's order. -/
def sboxRows2 : List (List Byte) :=
  [[0xcd, 0x0c, 0x13, 0xec, 0x5f, 0x97, 0x44, 0x17, 0xc4, 0xa7, 0x7e, 0x3d, 0x64, 0x5d, 0x19, 0x73],
   [0x60, 0x81, 0x4f, 0xdc, 0x22, 0x2a, 0x90, 0x88, 0x46, 0xee, 0xb8, 0x14, 0xde, 0x5e, 0x0b, 0xdb],
   [0xe0, 0x32, 0x3a, 0x0a, 0x49, 0x06, 0x24, 0x5c, 0xc2, 0xd3, 0xac, 0x62, 0x91, 0x95, 0xe4, 0x79],
   [0xe7, 0xc8, 0x37, 0x6d, 0x8d, 0xd5, 0x4e, 0xa9, 0x6c, 0x56, 0xf4, 0xea, 0x65, 0x7a, 0xae, 0x08]]

/-- Rows of the table (R215, R216), in the spec's order. -/
def sboxRows3 : List (List Byte) :=
  [[0xba, 0x78, 0x25, 0x2e, 0x1c, 0xa6, 0xb4, 0xc6, 0xe8, 0xdd, 0x74, 0x1f, 0x4b, 0xbd, 0x8b, 0x8a],
   [0x70, 0x3e, 0xb5, 0x66, 0x48, 0x03, 0xf6, 0x0e, 0x61, 0x35, 0x57, 0xb9, 0x86, 0xc1, 0x1d, 0x9e],
   [0xe1, 0xf8, 0x98, 0x11, 0x69, 0xd9, 0x8e, 0x94, 0x9b, 0x1e, 0x87, 0xe9, 0xce, 0x55, 0x28, 0xdf],
   [0x8c, 0xa1, 0x89, 0x0d, 0xbf, 0xe6, 0x42, 0x68, 0x41, 0x99, 0x2d, 0x0f, 0xb0, 0x54, 0xbb, 0x16]]

/-- The rows of the substitution table (R215). -/
def sboxRows : List (List Byte) := sboxRows0 ++ sboxRows1 ++ sboxRows2 ++ sboxRows3

/-- Rows of the table (R215, R216), in the spec's order. -/
def invSboxRows0 : List (List Byte) :=
  [[0x52, 0x09, 0x6a, 0xd5, 0x30, 0x36, 0xa5, 0x38, 0xbf, 0x40, 0xa3, 0x9e, 0x81, 0xf3, 0xd7, 0xfb],
   [0x7c, 0xe3, 0x39, 0x82, 0x9b, 0x2f, 0xff, 0x87, 0x34, 0x8e, 0x43, 0x44, 0xc4, 0xde, 0xe9, 0xcb],
   [0x54, 0x7b, 0x94, 0x32, 0xa6, 0xc2, 0x23, 0x3d, 0xee, 0x4c, 0x95, 0x0b, 0x42, 0xfa, 0xc3, 0x4e],
   [0x08, 0x2e, 0xa1, 0x66, 0x28, 0xd9, 0x24, 0xb2, 0x76, 0x5b, 0xa2, 0x49, 0x6d, 0x8b, 0xd1, 0x25]]

/-- Rows of the table (R215, R216), in the spec's order. -/
def invSboxRows1 : List (List Byte) :=
  [[0x72, 0xf8, 0xf6, 0x64, 0x86, 0x68, 0x98, 0x16, 0xd4, 0xa4, 0x5c, 0xcc, 0x5d, 0x65, 0xb6, 0x92],
   [0x6c, 0x70, 0x48, 0x50, 0xfd, 0xed, 0xb9, 0xda, 0x5e, 0x15, 0x46, 0x57, 0xa7, 0x8d, 0x9d, 0x84],
   [0x90, 0xd8, 0xab, 0x00, 0x8c, 0xbc, 0xd3, 0x0a, 0xf7, 0xe4, 0x58, 0x05, 0xb8, 0xb3, 0x45, 0x06],
   [0xd0, 0x2c, 0x1e, 0x8f, 0xca, 0x3f, 0x0f, 0x02, 0xc1, 0xaf, 0xbd, 0x03, 0x01, 0x13, 0x8a, 0x6b]]

/-- Rows of the table (R215, R216), in the spec's order. -/
def invSboxRows2 : List (List Byte) :=
  [[0x3a, 0x91, 0x11, 0x41, 0x4f, 0x67, 0xdc, 0xea, 0x97, 0xf2, 0xcf, 0xce, 0xf0, 0xb4, 0xe6, 0x73],
   [0x96, 0xac, 0x74, 0x22, 0xe7, 0xad, 0x35, 0x85, 0xe2, 0xf9, 0x37, 0xe8, 0x1c, 0x75, 0xdf, 0x6e],
   [0x47, 0xf1, 0x1a, 0x71, 0x1d, 0x29, 0xc5, 0x89, 0x6f, 0xb7, 0x62, 0x0e, 0xaa, 0x18, 0xbe, 0x1b],
   [0xfc, 0x56, 0x3e, 0x4b, 0xc6, 0xd2, 0x79, 0x20, 0x9a, 0xdb, 0xc0, 0xfe, 0x78, 0xcd, 0x5a, 0xf4]]

/-- Rows of the table (R215, R216), in the spec's order. -/
def invSboxRows3 : List (List Byte) :=
  [[0x1f, 0xdd, 0xa8, 0x33, 0x88, 0x07, 0xc7, 0x31, 0xb1, 0x12, 0x10, 0x59, 0x27, 0x80, 0xec, 0x5f],
   [0x60, 0x51, 0x7f, 0xa9, 0x19, 0xb5, 0x4a, 0x0d, 0x2d, 0xe5, 0x7a, 0x9f, 0x93, 0xc9, 0x9c, 0xef],
   [0xa0, 0xe0, 0x3b, 0x4d, 0xae, 0x2a, 0xf5, 0xb0, 0xc8, 0xeb, 0xbb, 0x3c, 0x83, 0x53, 0x99, 0x61],
   [0x17, 0x2b, 0x04, 0x7e, 0xba, 0x77, 0xd6, 0x26, 0xe1, 0x69, 0x14, 0x63, 0x55, 0x21, 0x0c, 0x7d]]

/-- The rows of the inverse substitution table (R216). -/
def invSboxRows : List (List Byte) :=
  invSboxRows0 ++ invSboxRows1 ++ invSboxRows2 ++ invSboxRows3

/-- Entry `0xXY` of a table: row `X_`, column `Y` (R215). -/
def tableEntry (rows : List (List Byte)) (a : Byte) : Byte :=
  (rows.getD (a.toNat / 16) []).getD (a.toNat % 16) 0

/-- `SBOX[a]` (R215). -/
def sbox (a : Byte) : Byte := tableEntry sboxRows a

/-- `INVSBOX[a]` (R216). -/
def invSbox (a : Byte) : Byte := tableEntry invSboxRows a

/-- `RC[1..10]` (R217). -/
def roundConstants : List Byte := [0x01, 0x02, 0x04, 0x08, 0x10, 0x20, 0x40, 0x80, 0x1b, 0x36]

/-! ### Key expansion (R222) -/

/-- A function of one byte on each of four bytes. -/
def quadMap (f : Byte → Byte) (q : Quad) : Quad := ⟨f q.r0, f q.r1, f q.r2, f q.r3⟩

/-- `RotWord` (R222). -/
def rotWord (t : Quad) : Quad := ⟨t.r1, t.r2, t.r3, t.r0⟩

/-- `SubWord` (R222). -/
def subWord (t : Quad) : Quad := quadMap sbox t

/-- The `t` of R222 at `i mod 4 = 0`: RotWord, SubWord, then the round constant on the first byte. -/
def keyCore (t : Quad) (rc : Byte) : Quad := (subWord (rotWord t)).xor ⟨rc, 0, 0, 0⟩

/-- `RK(r)` from `RK(r-1)`: the four words `w[4r .. 4r+3]`, each `w[i-4] xor t` (R222). -/
def nextRoundKey (rc : Byte) (k : Block) : Block :=
  let w0 := k.c0.xor (keyCore k.c3 rc)
  let w1 := k.c1.xor w0
  let w2 := k.c2.xor w1
  let w3 := k.c3.xor w2
  ⟨w0, w1, w2, w3⟩

/-- The round keys that start at `k`, one more for each round constant left. -/
def roundKeysFrom (k : Block) : List Byte → List Block
  | [] => [k]
  | rc :: rcs => k :: roundKeysFrom (nextRoundKey rc k) rcs

/-- `RK(0), …, RK(10)` (R222). -/
def roundKeys (key : Block) : List Block := roundKeysFrom key roundConstants

/-! ### Round transformations (R223, R224) -/

/-- A function of one column on each of the four columns. -/
def mapColumns (f : Quad → Quad) (s : Block) : Block := ⟨f s.c0, f s.c1, f s.c2, f s.c3⟩

/-- `SubBytes` (R223). -/
def subBytes (s : Block) : Block := mapColumns (quadMap sbox) s

/-- `ShiftRows`: `s'[r + 4c] = s[r + 4((c + r) mod 4)]` (R223). -/
def shiftRows (s : Block) : Block :=
  ⟨⟨s.c0.r0, s.c1.r1, s.c2.r2, s.c3.r3⟩, ⟨s.c1.r0, s.c2.r1, s.c3.r2, s.c0.r3⟩,
   ⟨s.c2.r0, s.c3.r1, s.c0.r2, s.c1.r3⟩, ⟨s.c3.r0, s.c0.r1, s.c1.r2, s.c2.r3⟩⟩

/-- `MixColumns` on one column (R223). -/
def mixColumn (a : Quad) : Quad :=
  ⟨mul02 a.r0 ^^^ mul03 a.r1 ^^^ a.r2 ^^^ a.r3,
   a.r0 ^^^ mul02 a.r1 ^^^ mul03 a.r2 ^^^ a.r3,
   a.r0 ^^^ a.r1 ^^^ mul02 a.r2 ^^^ mul03 a.r3,
   mul03 a.r0 ^^^ a.r1 ^^^ a.r2 ^^^ mul02 a.r3⟩

/-- `MixColumns` (R223). -/
def mixColumns (s : Block) : Block := mapColumns mixColumn s

/-- `AddRoundKey` (R223), its own inverse. -/
def addRoundKey (s k : Block) : Block := s.xor k

/-- `InvSubBytes` (R224). -/
def invSubBytes (s : Block) : Block := mapColumns (quadMap invSbox) s

/-- `InvShiftRows`: `s'[r + 4c] = s[r + 4((c - r) mod 4)]` (R224). -/
def invShiftRows (s : Block) : Block :=
  ⟨⟨s.c0.r0, s.c3.r1, s.c2.r2, s.c1.r3⟩, ⟨s.c1.r0, s.c0.r1, s.c3.r2, s.c2.r3⟩,
   ⟨s.c2.r0, s.c1.r1, s.c0.r2, s.c3.r3⟩, ⟨s.c3.r0, s.c2.r1, s.c1.r2, s.c0.r3⟩⟩

/-- `InvMixColumns` on one column (R224). -/
def invMixColumn (a : Quad) : Quad :=
  ⟨mul0e a.r0 ^^^ mul0b a.r1 ^^^ mul0d a.r2 ^^^ mul09 a.r3,
   mul09 a.r0 ^^^ mul0e a.r1 ^^^ mul0b a.r2 ^^^ mul0d a.r3,
   mul0d a.r0 ^^^ mul09 a.r1 ^^^ mul0e a.r2 ^^^ mul0b a.r3,
   mul0b a.r0 ^^^ mul0d a.r1 ^^^ mul09 a.r2 ^^^ mul0e a.r3⟩

/-- `InvMixColumns` (R224). -/
def invMixColumns (s : Block) : Block := mapColumns invMixColumn s

/-! ### The cipher and its inverse (R226, R227) -/

/-- The rounds after the initial AddRoundKey, one for each round key left; the last has no MixColumns
(R226). -/
def encRounds (s : Block) : List Block → Block
  | [] => s
  | [k] => addRoundKey (shiftRows (subBytes s)) k
  | k :: ks => encRounds (addRoundKey (mixColumns (shiftRows (subBytes s))) k) ks

/-- `AES128_Enc(K, B)` (R226). -/
def aesEnc (key b : Block) : Block :=
  match roundKeys key with
  | [] => b
  | k :: ks => encRounds (addRoundKey b k) ks

/-- The inverse rounds after the initial AddRoundKey, the round keys given last one first; the last
has no InvMixColumns (R227). -/
def decRounds (s : Block) : List Block → Block
  | [] => s
  | [k] => addRoundKey (invSubBytes (invShiftRows s)) k
  | k :: ks => decRounds (invMixColumns (addRoundKey (invSubBytes (invShiftRows s)) k)) ks

/-- `AES128_Dec(K, B)` (R227). -/
def aesDec (key b : Block) : Block :=
  match (roundKeys key).reverse with
  | [] => b
  | k :: ks => decRounds (addRoundKey b k) ks

end Sys2Proof.Machine
end

