-- ==== Sys2Proof/Machine/Cbcs.lean ====
section
/-! DEFINITION. The CBCS path, AES-128 CBC with the crypt/skip pattern (spec 43_cbcs_pattern.md R190 to
R201; PRESUMED where the spec marks CBC as general knowledge, notes/assumptions/6.md), and the complementary encryption of R202, which no command performs: it stands here so that the
round trip of the source can be stated. -/

namespace Sys2Proof.Machine

/-- A range as `m` whole blocks `C_k = C[16k .. 16k+15]` (R191). -/
def blocksOf : Nat → List Byte → List Block
  | 0, _ => []
  | m + 1, bs => blockOfBytes bs :: blocksOf m (bs.drop 16)

/-- `P_0 ‖ … ‖ P_{m-1}`. -/
def bytesOfBlocks : List Block → List Byte
  | [] => []
  | b :: bs => b.toList ++ bytesOfBlocks bs

/-- What a walk over blocks leaves: the plaintext blocks, CHAIN and PATPOS. -/
structure Walk where
  blocks : List Block
  chain : Block
  patpos : BitVec 9
deriving DecidableEq, Repr

/-- The walk with one more block in front. -/
def Walk.cons (p : Block) (w : Walk) : Walk := { w with blocks := p :: w.blocks }

/-- The plaintext block of `CbcBlock`: `AES128_Dec(KEY, Cb) xor CHAIN` (R192). -/
def cbcPlainBlock (key chain cb : Block) : Block := (aesDec key cb).xor chain

/-- The loop of `CbcsPlain` (R193): every block decrypted, CHAIN the last ciphertext block. -/
def cbcsPlain (key : Block) : Block → BitVec 9 → List Block → Walk
  | chain, pos, [] => ⟨[], chain, pos⟩
  | chain, pos, c :: cs => Walk.cons (cbcPlainBlock key chain c) (cbcsPlain key c pos cs)

/-- `PATPOS <- (PATPOS + 1) mod (CRYPT + SKIP)` (R194). -/
def nextPatpos (crypt skip : Byte) (pos : BitVec 9) : BitVec 9 :=
  BitVec.ofNat 9 ((pos.toNat + 1) % (crypt.toNat + skip.toNat))

/-- The chaining value with which a block is entered: reloaded from IV where a group starts (R195). -/
def groupChain (iv chain : Block) (pos : BitVec 9) : Block := if pos == 0 then iv else chain

/-- The loop of `CbcsPattern` (R194). -/
def cbcsPattern (key iv : Block) (crypt skip : Byte) : Block → BitVec 9 → List Block → Walk
  | chain, pos, [] => ⟨[], chain, pos⟩
  | chain, pos, c :: cs =>
    let ch := groupChain iv chain pos
    if pos.toNat < crypt.toNat then
      Walk.cons (cbcPlainBlock key ch c)
        (cbcsPattern key iv crypt skip c (nextPatpos crypt skip pos) cs)
    else
      Walk.cons c (cbcsPattern key iv crypt skip ch (nextPatpos crypt skip pos) cs)

/-- CHAIN at the entry of a range with the pattern disabled (R193, R197). -/
def plainEntryChain (p : Params) (iv chain : Block) : Block := if p.cbcRangeRestart then iv else chain

/-- PATPOS at the entry of a range with the pattern active (R194, R196). -/
def patternEntryPos (p : Params) (pos : BitVec 9) : BitVec 9 := if p.patRangeRestart then 0 else pos

/-- `CbcsRange` on the blocks of a range: disabled exactly when CRYPT = 0 (R190, R191). -/
def cbcsWalk (p : Params) (key iv : Block) (crypt skip : Byte) (chain : Block) (pos : BitVec 9)
    (cs : List Block) : Walk :=
  if crypt == 0 then cbcsPlain key (plainEntryChain p iv chain) pos cs
  else cbcsPattern key iv crypt skip chain (patternEntryPos p pos) cs

/-! ### The complementary encryption (R202) -/

/-- The complement of `CbcsPlain`: `C_k = AES128_Enc(KEY, P_k xor CHAIN)`, CHAIN the last ciphertext
block. -/
def cbcsPlainEnc (key : Block) : Block → BitVec 9 → List Block → Walk
  | chain, pos, [] => ⟨[], chain, pos⟩
  | chain, pos, p :: ps =>
    let c := aesEnc key (p.xor chain)
    Walk.cons c (cbcsPlainEnc key c pos ps)

/-- The complement of `CbcsPattern`: IV wherever the decrypting walk reloads CHAIN, skipped blocks
copied. -/
def cbcsPatternEnc (key iv : Block) (crypt skip : Byte) : Block → BitVec 9 → List Block → Walk
  | chain, pos, [] => ⟨[], chain, pos⟩
  | chain, pos, p :: ps =>
    let ch := groupChain iv chain pos
    if pos.toNat < crypt.toNat then
      let c := aesEnc key (p.xor ch)
      Walk.cons c (cbcsPatternEnc key iv crypt skip c (nextPatpos crypt skip pos) ps)
    else
      Walk.cons p (cbcsPatternEnc key iv crypt skip ch (nextPatpos crypt skip pos) ps)

/-- The complement of `CbcsRange`. -/
def cbcsWalkEnc (p : Params) (key iv : Block) (crypt skip : Byte) (chain : Block) (pos : BitVec 9)
    (ps : List Block) : Walk :=
  if crypt == 0 then cbcsPlainEnc key (plainEntryChain p iv chain) pos ps
  else cbcsPatternEnc key iv crypt skip chain (patternEntryPos p pos) ps

end Sys2Proof.Machine
end

