-- ==== Sys2Proof/Machine/Cenc.lean ====
section
/-! DEFINITION. The CENC path, AES-128 counter mode (spec 42_cenc_ctr.md R170 to R178;
PRESUMED where the spec marks the construction as general knowledge, notes/assumptions/6.md). -/

namespace Sys2Proof.Machine

/-- `be64` of eight bytes (R7). -/
def be64 (hi lo : Quad) : BitVec 64 := wordOfQuad hi ++ wordOfQuad lo

/-- `be128` of sixteen bytes (R7). -/
def be128 (b : Block) : BitVec 128 := be64 b.c0 b.c1 ++ be64 b.c2 b.c3

/-- `to_be128` (R7). -/
def toBe128 (n : BitVec 128) : Block :=
  ⟨quadOfWord (n.extractLsb' 96 32), quadOfWord (n.extractLsb' 64 32),
   quadOfWord (n.extractLsb' 32 32), quadOfWord (n.extractLsb' 0 32)⟩

/-- `CtrBlk(b)`: the IV with `b` added to it as a big-endian number, the carry confined to the low
`CTR_CARRY_BITS` bits (R170, R176). -/
def ctrBlk (carry : CarryBits) (iv : Block) (b : Nat) : Block :=
  match carry with
  | .bits64 =>
    let n := be64 iv.c2 iv.c3 + BitVec.ofNat 64 b
    { iv with c2 := quadOfWord (n.extractLsb' 32 32), c3 := quadOfWord (n.extractLsb' 0 32) }
  | .bits128 => toBe128 (be128 iv + BitVec.ofNat 128 b)

/-- `AES128_Enc(KEY, CtrBlk(b))`, keystream block `b` (R171). -/
def keystreamBlock (carry : CarryBits) (key iv : Block) (b : Nat) : Block :=
  aesEnc key (ctrBlk carry iv b)

/-- `m` consecutive keystream blocks, the first with index `b`, as bytes. -/
def keystreamBlocks (carry : CarryBits) (key iv : Block) : Nat → Nat → List Byte
  | _, 0 => []
  | b, m + 1 => (keystreamBlock carry key iv b).toList ++ keystreamBlocks carry key iv (b + 1) m

/-- `KS[e], …, KS[e + n - 1]`, each keystream block computed once (R171, R172): the blocks from
`e div 16` on, from offset `e mod 16` of the first. -/
def keystream (carry : CarryBits) (key iv : Block) (e n : Nat) : List Byte :=
  ((keystreamBlocks carry key iv (e / 16) ((e % 16 + n + 15) / 16)).drop (e % 16)).take n

/-- `CencRange(C)` with ENCPOS = `e` at entry: `C[i] xor KS[e + i]` (R172). -/
def cencRange (carry : CarryBits) (key iv : Block) (e : Nat) (c : List Byte) : List Byte :=
  List.zipWith (· ^^^ ·) c (keystream carry key iv e c.length)

end Sys2Proof.Machine
end

