-- ==== Sys2Proof/Machine/Range.lean ====
section
/-! DEFINITION. The building blocks of the subsample walk: clear bytes and `Range(n)` (spec
41_sample_control.md R145, R146), which dispatches to the CENC path (42_cenc_ctr.md) or the CBCS path
(43_cbcs_pattern.md). -/

namespace Sys2Proof.Machine

/-- `DoutWrite(DinRead(n))`: clear bytes copied unchanged (R145). -/
def copyClear (n : Nat) (s : State) : State := doutWrite (dinBytes n s) (consume n s)

/-- The plaintext of a CENC range (R172), ENCPOS read before its update (R146). -/
def cencPlaintext (n : Nat) (s : State) : List Byte :=
  cencRange s.params.ctrCarryBits s.key s.iv s.encpos.toNat (dinBytes n s)

/-- The walk of a CBCS range over its blocks (R191). -/
def cbcsRangeWalk (n : Nat) (s : State) : Walk :=
  cbcsWalk s.params s.key s.iv s.crypt s.skip s.chain s.patpos (blocksOf (n / 16) (dinBytes n s))

/-- `Range(n)`: `n` bytes read, decrypted by the scheme's path and written, then ENCPOS advanced
(R146; modulo 2^32 in states no run reaches, DESIGN CHOICE, notes/assumptions/7.md). The CBCS path also leaves its CHAIN and PATPOS. -/
def range (n : Nat) (s : State) : State :=
  let pos := BitVec.ofNat 32 (s.encpos.toNat + n)
  match s.scheme with
  | .cenc => { doutWrite (cencPlaintext n s) (consume n s) with encpos := pos }
  | .cbcs =>
    let w := cbcsRangeWalk n s
    { doutWrite (bytesOfBlocks w.blocks) (consume n s) with
        encpos := pos, chain := w.chain, patpos := w.patpos }

end Sys2Proof.Machine
end

