-- ==== Sys2Proof/Machine/SampleControl.lean ====
section
/-! DEFINITION. The sample commands BEGIN, SUB, END, FIN (spec 41_sample_control.md R141 to R144). For
each: its fault checks in the order its rule lists them, its outcome by the common step (R140), its
effect, its meaning. -/

namespace Sys2Proof.Machine

/-! ### BEGIN (R141) -/

/-- The fault checks of BEGIN (R141, R242, R244). -/
def beginChecks (sub : Bool) (slen : Word) (s : State) : List Check :=
  [⟨!s.keyv, .missingKey⟩, ⟨!sub && unalignedRange s slen.toNat, .unalignedCipherBlock⟩]

/-- The DIN bytes BEGIN needs: SLEN without a subsample list, else none (R141). -/
def beginNeed (sub : Bool) (slen : Word) : Nat := if sub then 0 else slen.toNat

/-- The outcome of BEGIN (R98, R141). -/
def beginOutcome (sub : Bool) (slen : Word) (s : State) : StepOutcome :=
  judge s (legalInIdle s) (beginChecks sub slen s) (beginNeed sub slen)

/-- The register writes that open a sample (R141): the new IV, CHAIN, and every position at 0. -/
def openSample (iv16 sub : Bool) (slen : Word) (iv : List Byte) (s : State) : State :=
  { setSampleFlags iv16 sub s with
      slen := slen, iv := padIv iv, chain := padIv iv, spos := 0, encpos := 0, patpos := 0,
      phase := .sample }

/-- The effect of BEGIN: the sample is opened, and without a subsample list the whole sample is one
encrypted range of it (R141, R149). -/
def beginEffect (iv16 sub : Bool) (slen : Word) (iv : List Byte) (s : State) : State :=
  let s1 := openSample iv16 sub slen iv s
  let s2 := if sub then s1 else { range slen.toNat s1 with spos := slen }
  advance (Instr.beginSample iv16 sub slen iv).words s2

/-- BEGIN (R141). -/
def execBegin (iv16 sub : Bool) (slen : Word) (iv : List Byte) (s : State) :
    Host.Outcome State Fault Refusal :=
  conclude (beginOutcome sub slen s) s (beginEffect iv16 sub slen iv s)

/-! ### SUB (R142) -/

/-- SPOS after the pair, on unbounded naturals (R142). -/
def pairEnd (clear : BitVec 16) (enc : Word) (s : State) : Nat :=
  s.spos.toNat + clear.toNat + enc.toNat

/-- The fault checks of SUB (R142, R242, R243). -/
def subChecks (clear : BitVec 16) (enc : Word) (s : State) : List Check :=
  [⟨decide (s.slen.toNat < pairEnd clear enc s), .malformedAuxInfo⟩,
   ⟨unalignedRange s enc.toNat, .unalignedCipherBlock⟩]

/-- The outcome of SUB; illegal in a sample begun without a subsample list (R98, R142). -/
def subOutcome (clear : BitVec 16) (enc : Word) (s : State) : StepOutcome :=
  judge s (legalInSample s && s.usesub) (subChecks clear enc s) (clear.toNat + enc.toNat)

/-- The effect of SUB: the clear bytes copied, the encrypted bytes decrypted, SPOS advanced (R142). -/
def subEffect (clear : BitVec 16) (enc : Word) (s : State) : State :=
  let s1 := range enc.toNat (copyClear clear.toNat s)
  advance (Instr.sub clear enc).words { s1 with spos := BitVec.ofNat 32 (pairEnd clear enc s) }

/-- SUB (R142). -/
def execSub (clear : BitVec 16) (enc : Word) (s : State) : Host.Outcome State Fault Refusal :=
  conclude (subOutcome clear enc s) s (subEffect clear enc s)

/-! ### END (R143) -/

/-- The fault check of END (R143, R243). -/
def endChecks (s : State) : List Check := [⟨s.spos != s.slen, .malformedAuxInfo⟩]

/-- The outcome of END (R98, R143). -/
def endOutcome (s : State) : StepOutcome := judge s (legalInSample s) (endChecks s) 0

/-- The effect of END (R143). -/
def endEffect (s : State) : State :=
  advance Instr.endSample.words { s with phase := .idle, sidx := s.sidx + 1 }

/-- END (R143). -/
def execEnd (s : State) : Host.Outcome State Fault Refusal :=
  conclude (endOutcome s) s (endEffect s)

/-! ### FIN (R144) -/

/-- The outcome of FIN (R98, R144). -/
def finOutcome (s : State) : StepOutcome := judge s (legalInIdle s) [] 0

/-- The effect of FIN: the run is over and the key discarded (R144). -/
def finEffect (s : State) : State :=
  advance Instr.fin.words (clearKey { s with phase := .done })

/-- FIN (R144). -/
def execFin (s : State) : Host.Outcome State Fault Refusal :=
  conclude (finOutcome s) s (finEffect s)

end Sys2Proof.Machine
end

