-- ==== Sys2Proof/Machine/Dispatch.lean ====
section
/-! DEFINITION. One arm per command (spec 30_encoding.md R95). -/

namespace Sys2Proof.Machine

def exec (i : Instr) (s : State) : Host.Outcome State Fault Refusal :=
  match i with
  | .nop => Sys2Proof.Machine.execNop s
  | .ldkid kid => Sys2Proof.Machine.execLdkid kid s
  | .ldkey key => Sys2Proof.Machine.execLdkey key s
  | .cfg schm crypt skip => Sys2Proof.Machine.execCfg schm crypt skip s
  | .beginSample iv16 sub slen iv => Sys2Proof.Machine.execBegin iv16 sub slen iv s
  | .sub clear enc => Sys2Proof.Machine.execSub clear enc s
  | .endSample => Sys2Proof.Machine.execEnd s
  | .fin => Sys2Proof.Machine.execFin s

end Sys2Proof.Machine
end

