-- ==== Sys2Proof/Machine/Fetch.lean ====
section
/-! DEFINITION. Fetching a command from CMD at CPC, and what a step does when there is none (spec
41_sample_control.md R140 steps 1 to 4, 30_encoding.md R97). -/

namespace Sys2Proof.Machine

/-- The command at CPC, or why there is none (R96, R97). -/
def fetch (s : State) : Except Reject Instr := decode (pendingWords s)

/-- The outcome of a step that has no command to run: halted in DONE and FAULT, a hold while words are
missing, else `IllegalCommand` (R140 steps 1 to 4, R245). -/
def rejectOutcome (r : Reject) (s : State) : StepOutcome :=
  if isHalted s then .halted
  else
    match r with
    | .incomplete => .holdCmd
    | .reservedOpcode _ => .fault .illegalCommand
    | .reservedBits _ => .fault .illegalCommand

/-- CMD with the words `ws` standing at index `n`, every other word kept; where CMD is shorter than
`n`, words of zeros fill the gap (DESIGN CHOICE, notes/assumptions/3.md). -/
def placeWords (n : Nat) (ws cmd : List Word) : List Word :=
  cmd.take n ++ List.replicate (n - cmd.length) 0 ++ ws ++ cmd.drop (n + ws.length)

end Sys2Proof.Machine
end

