-- ==== Sys2Proof/Machine/Step.lean ====
section
/-! DEFINITION. The step (spec 41_sample_control.md R140): the command at CPC is fetched and executed;
where there is none, the step faults or leaves the state as it is. -/

namespace Sys2Proof.Machine

/-- The step of the engine (R140), one whole command. -/
def step (s : State) : Host.Outcome State Fault Refusal :=
  match fetch s with
  | .ok i => exec i s
  | .error r => conclude (rejectOutcome r s) s s

/-- `s` with the command whose bits are `w` (bits from `nbits` on zero) standing in CMD at CPC, where
the step fetches. -/
def State.withFetchWord (s : State) (nbits w : Nat) : State :=
  { s with cmd := placeWords s.cpc (tableWords nbits w) s.cmd }

end Sys2Proof.Machine
end

