-- ==== Sys2Proof/Machine/Assembler.lean ====
section
/-! DEFINITION. The textual form of commands and its pseudo-instructions (spec 30_encoding.md R101,
R102). A line is a list of characters; the assembler answers the commands it stands for, or none where
R101 refuses it. -/

namespace Sys2Proof.Machine

/-! ### Characters and operands (R101) -/

/-- The value of a hexadecimal digit. -/
def hexDigit (c : Char) : Option Nat :=
  let n := c.toNat
  if 48 ≤ n && n ≤ 57 then some (n - 48)
  else if 97 ≤ n && n ≤ 102 then some (n - 87)
  else if 65 ≤ n && n ≤ 70 then some (n - 55)
  else none

/-- The value of a decimal digit. -/
def decDigit (c : Char) : Option Nat :=
  let n := c.toNat
  if 48 ≤ n && n ≤ 57 then some (n - 48) else none

/-- The number whose digits in a base follow the digits already read, which stand for `acc`. -/
def digitsFrom (digit : Char → Option Nat) (base : Nat) : Nat → List Char → Option Nat
  | acc, [] => some acc
  | acc, c :: cs =>
    match digit c with
    | some d => digitsFrom digit base (acc * base + d) cs
    | none => none

/-- A number: decimal, or hexadecimal after `0x`; at least one digit. -/
def parseNumber : List Char → Option Nat
  | [] => none
  | '0' :: 'x' :: c :: cs => digitsFrom hexDigit 16 0 (c :: cs)
  | c :: cs => digitsFrom decDigit 10 0 (c :: cs)

/-- A number that fits a field of `w` bits; a larger one is refused. -/
def parseField (w : Nat) (cs : List Char) : Option (BitVec w) :=
  match parseNumber cs with
  | some n => if n < 2 ^ w then some (BitVec.ofNat w n) else none
  | none => none

/-- A byte string: an even number of hexadecimal digits, first byte first. -/
def parseBytes : List Char → Option (List Byte)
  | [] => some []
  | [_] => none
  | a :: b :: cs =>
    match hexDigit a, hexDigit b, parseBytes cs with
    | some x, some y, some bs => some (BitVec.ofNat 8 (16 * x + y) :: bs)
    | _, _, _ => none

/-- A key or key-id: exactly 32 hexadecimal digits. -/
def parseKey (cs : List Char) : Option Block :=
  match parseBytes cs with
  | some bs => if bs.length == 16 then some (blockOfBytes bs) else none
  | none => none

/-- A stored IV: 16 or 32 hexadecimal digits; 32 give IV16 = 1. -/
def parseIv (cs : List Char) : Option (Bool × List Byte) :=
  match parseBytes cs with
  | some bs =>
    if bs.length == 16 then some (true, bs)
    else if bs.length == 8 then some (false, bs)
    else none
  | none => none

/-- A scheme name. -/
def parseScheme (cs : List Char) : Option SchemeName :=
  if cs == ['c', 'e', 'n', 'c'] then some .cenc
  else if cs == ['c', 'b', 'c', 's'] then some .cbcs
  else if cs == ['c', 'e', 'n', 's'] then some .cens
  else if cs == ['c', 'b', 'c', '1'] then some .cbc1
  else none

/-! ### Lines (R101) -/

/-- A character that only separates (DESIGN CHOICE, notes/assumptions/8.md). -/
def isBlank (c : Char) : Bool := c == ' ' || c == '\t' || c == '\r'

/-- The text without blanks at either end. -/
def trimBlanks (cs : List Char) : List Char :=
  ((cs.dropWhile isBlank).reverse.dropWhile isBlank).reverse

/-- The pieces between separators. -/
def splitAt (sep : Char) : List Char → List (List Char)
  | [] => [[]]
  | c :: cs =>
    if c == sep then [] :: splitAt sep cs
    else
      match splitAt sep cs with
      | [] => [[c]]
      | p :: ps => (c :: p) :: ps

/-- The text before a comment. -/
def dropComment (cs : List Char) : List Char := cs.takeWhile (· != ';')

/-- A line's mnemonic and its operands. -/
structure Line where
  mnemonic : List Char
  operands : List (List Char)
deriving DecidableEq, Repr

/-- The mnemonic and the comma-separated operands of a line. -/
def readLine (cs : List Char) : Line :=
  let body := trimBlanks (dropComment cs)
  let rest := trimBlanks (body.dropWhile (fun c => !isBlank c))
  ⟨body.takeWhile (fun c => !isBlank c),
   if rest == [] then [] else (splitAt ',' rest).map trimBlanks⟩

/-! ### Commands and pseudo-instructions (R101, R102) -/

/-- CFG with its optional counts, which default to 0 (R101). -/
def parseCfg (ops : List (List Char)) : Option Instr :=
  match ops with
  | [name] =>
    match parseScheme name with
    | some schm => some (.cfg schm 0 0)
    | none => none
  | [name, crypt, skip] =>
    match parseScheme name, parseField 8 crypt, parseField 8 skip with
    | some schm, some c, some k => some (.cfg schm c k)
    | _, _, _ => none
  | _ => none

/-- BEGIN; S = 1 when the word `sub` is present (R101). -/
def parseBegin (ops : List (List Char)) : Option Instr :=
  match ops with
  | [slen, iv] =>
    match parseField 32 slen, parseIv iv with
    | some n, some (iv16, v) => some (.beginSample iv16 false n v)
    | _, _ => none
  | [slen, iv, s] =>
    match parseField 32 slen, parseIv iv, s == ['s', 'u', 'b'] with
    | some n, some (iv16, v), true => some (.beginSample iv16 true n v)
    | _, _, _ => none
  | _ => none

/-- SUB (R101). -/
def parseSub (ops : List (List Char)) : Option Instr :=
  match ops with
  | [clear, enc] =>
    match parseField 16 clear, parseField 32 enc with
    | some c, some e => some (.sub c e)
    | _, _ => none
  | _ => none

/-- A command that takes one 16-byte operand (R101). -/
def parseKeyed (mk : Block → Instr) (ops : List (List Char)) : Option Instr :=
  match ops with
  | [k] =>
    match parseKey k with
    | some b => some (mk b)
    | none => none
  | _ => none

/-- One command as a list, or nothing. -/
def single (o : Option Instr) : Option (List Instr) :=
  match o with
  | some i => some [i]
  | none => none

/-- A command without operands (R101). -/
def parseBare (i : Instr) (ops : List (List Char)) : Option (List Instr) :=
  if ops == [] then some [i] else none

/-- `TRACK`: LDKID, LDKEY, CFG (R102). -/
def parseTrack (ops : List (List Char)) : Option (List Instr) :=
  match ops with
  | kid :: key :: cfg =>
    match parseKey kid, parseKey key, parseCfg cfg with
    | some a, some b, some c => some [.ldkid a, .ldkey b, c]
    | _, _, _ => none
  | _ => none

/-- `SAMPLE`: BEGIN without a subsample list, END (R102). -/
def parseSample (ops : List (List Char)) : Option (List Instr) :=
  match ops with
  | [slen, iv] =>
    match parseBegin [slen, iv] with
    | some b => some [b, .endSample]
    | none => none
  | _ => none

/-- The commands a line stands for: none of them for an empty line, `none` for one R101 refuses. -/
def assembleLine (cs : List Char) : Option (List Instr) :=
  let l := readLine cs
  let m := l.mnemonic
  let ops := l.operands
  if m == [] then some []
  else if m == ['N', 'O', 'P'] then parseBare .nop ops
  else if m == ['L', 'D', 'K', 'I', 'D'] then single (parseKeyed .ldkid ops)
  else if m == ['L', 'D', 'K', 'E', 'Y'] then single (parseKeyed .ldkey ops)
  else if m == ['C', 'F', 'G'] then single (parseCfg ops)
  else if m == ['B', 'E', 'G', 'I', 'N'] then single (parseBegin ops)
  else if m == ['S', 'U', 'B'] then single (parseSub ops)
  else if m == ['E', 'N', 'D'] then parseBare .endSample ops
  else if m == ['F', 'I', 'N'] then parseBare .fin ops
  else if m == ['T', 'R', 'A', 'C', 'K'] then parseTrack ops
  else if m == ['N', 'O', 'K', 'E', 'Y'] then single (parseKeyed .ldkid ops)
  else if m == ['S', 'A', 'M', 'P', 'L', 'E'] then parseSample ops
  else none

/-- The commands of a list of lines. -/
def assembleLines : List (List Char) → Option (List Instr)
  | [] => some []
  | l :: ls =>
    match assembleLine l, assembleLines ls with
    | some a, some b => some (a ++ b)
    | _, _ => none

/-- The command words of a program text, one command a line (R101). -/
def assembleText (text : List Char) : Option (List Word) :=
  match assembleLines (splitAt '\n' text) with
  | some is => some (is.flatMap encode)
  | none => none

end Sys2Proof.Machine
end

