-- ==== Sys2Proof/Machine/RegPort.lean ====
section
/-! DEFINITION. The read-only REG port (spec 10_state.md R45, R46) and the error value a host reads after
a fault (60_exceptions.md R251). A read has no effect on any state, so it is a function of it. -/

namespace Sys2Proof.Machine

/-- Word `k` of a 16-byte register, `Xw_k` (R46). -/
def blockWord (b : Block) (k : Nat) : Word := (wordsOfBlock b).getD k 0

/-- `RegRead(n)` (R46). KEY has no arm: its four numbers and the reserved numbers read 0 (R28). -/
def regRead (n : BitVec 6) (s : State) : Word :=
  match n.toNat with
  | 0x00 => statusWord s
  | 0x01 => configWord s
  | 0x02 => s.slen
  | 0x03 => s.spos
  | 0x04 => s.encpos
  | 0x05 => s.patpos.setWidth 32
  | 0x06 => s.sidx
  | 0x08 => blockWord s.kid 0
  | 0x09 => blockWord s.kid 1
  | 0x0A => blockWord s.kid 2
  | 0x0B => blockWord s.kid 3
  | 0x0C => blockWord s.iv 0
  | 0x0D => blockWord s.iv 1
  | 0x0E => blockWord s.iv 2
  | 0x0F => blockWord s.iv 3
  | 0x10 => blockWord s.chain 0
  | 0x11 => blockWord s.chain 1
  | 0x12 => blockWord s.chain 2
  | 0x13 => blockWord s.chain 3
  | _ => 0

/-- The single error value of a run that ended in FAULT (R251): kind, offending offset, key-id. -/
structure ErrorValue where
  kind : BitVec 4
  sample : Word
  offset : Word
  keyId : Block
deriving DecidableEq, Repr

/-- What the host reads after a fault: the registers as they stand (R251; DEDUCED,
notes/assumptions/9.md). -/
def errorValue (s : State) : ErrorValue := ⟨s.fcode, s.sidx, s.spos, s.kid⟩

end Sys2Proof.Machine
end

