-- ==== Sys2Proof/Machine/HostPort.lean ====
section
/-! DEFINITION. The host's moves (spec 70_reset_and_hazards.md R290), among them the reset (R280), which
is the only way out of DONE and FAULT (60_exceptions.md R252). They happen between steps; the step
function makes none of them (DESIGN CHOICE, notes/assumptions/3.md). -/

namespace Sys2Proof.Machine

/-- The moves of R290. -/
inductive HostMove where
  /-- Assert the reset input. -/
  | reset
  /-- Append words at the tail of CMD. -/
  | appendCmd (ws : List Word)
  /-- Append bytes at the tail of DIN. -/
  | appendDin (bs : List Byte)
  /-- Take bytes from DOUT; no effect in the model. -/
  | takeDout
  /-- Read a register. -/
  | readReg (n : BitVec 6)
deriving DecidableEq, Repr

/-- The reset of R280: every register, CMD and DIN as after power-on, a new run with an empty DOUT. The
OPEN parameters are the engine's and stay (DESIGN CHOICE, notes/assumptions/1.md). -/
def resetEngine (s : State) : State := { State.reset with params := s.params }

/-- CMD with words appended (R61). -/
def appendCmd (ws : List Word) (s : State) : State := { s with cmd := s.cmd ++ ws }

/-- DIN with bytes appended (R62). -/
def appendDin (bs : List Byte) (s : State) : State := { s with din := s.din ++ bs }

/-- The state after a move, none where R290 does not allow it: words and bytes are appended before the
run ends only. -/
def hostMove (m : HostMove) (s : State) : Option State :=
  match m with
  | .reset => some (resetEngine s)
  | .appendCmd ws => if isHalted s then none else some (appendCmd ws s)
  | .appendDin bs => if isHalted s then none else some (appendDin bs s)
  | .takeDout => some s
  | .readReg _ => some s

end Sys2Proof.Machine
end

