-- ==== Sys2Proof/Machine/StepOutcome.lean ====
section
/-! DEFINITION. Which of the spec's four outcomes a step has (00_scope.md R9, 41_sample_control.md R140),
as plain data beside the next state. The meanings are written over the same outcome functions, so this
file decides nothing anew. -/

namespace Sys2Proof.Machine

/-- The outcome of a decoded, complete command (R140 steps 1 and 5 to 7). -/
def instrOutcome (i : Instr) (s : State) : StepOutcome :=
  match i with
  | .nop => nopOutcome s
  | .ldkid _ => ldkidOutcome s
  | .ldkey _ => ldkeyOutcome s
  | .cfg _ _ _ => cfgOutcome s
  | .beginSample _ sub slen _ => beginOutcome sub slen s
  | .sub clear enc => subOutcome clear enc s
  | .endSample => endOutcome s
  | .fin => finOutcome s

/-- The command's pseudocode with the advance of CPC (R140 step 8). -/
def instrEffect (i : Instr) (s : State) : State :=
  match i with
  | .nop => nopEffect s
  | .ldkid kid => ldkidEffect kid s
  | .ldkey key => ldkeyEffect key s
  | .cfg schm crypt skip => cfgEffect schm crypt skip s
  | .beginSample iv16 sub slen iv => beginEffect iv16 sub slen iv s
  | .sub clear enc => subEffect clear enc s
  | .endSample => endEffect s
  | .fin => finEffect s

/-- The outcome of a step (R9, R140). -/
def stepOutcome (s : State) : StepOutcome :=
  match fetch s with
  | .ok i => instrOutcome i s
  | .error r => rejectOutcome r s

end Sys2Proof.Machine
end

