-- ==== Sys2Proof/Safety.lean ====
section
/-! DEFINITION. The terms claims are stated in: the state invariants of spec 10_state.md R56 with the
stream invariants of 20_memory.md R63, runs of several steps, what two states that differ only in the
key look like to the host (R28), and the rules' own byte-by-byte and word-by-word formulas (R7, R171,
R215, R222), against which the block-wise functions of Machine/ are held. -/

namespace Sys2Proof.Machine

/-! ### Invariants (R56) -/

/-- R56 (a): a fault code is recorded exactly in FAULT. -/
abbrev FaultCodeRecorded (s : State) : Prop := s.fcode ≠ 0 ↔ s.phase = .fault

/-- R240, R241: FCODE is 0 or the code of a fault the engine raises. -/
abbrev FaultCodeRaised (s : State) : Prop :=
  s.fcode = 0 ∨ s.fcode = 5 ∨ s.fcode = 6 ∨ s.fcode = 7 ∨ s.fcode = 8

/-- R56 (b): an empty key slot holds zero bytes. -/
abbrev EmptySlotZero (s : State) : Prop := s.keyv = false → s.key = Block.zero

/-- R56 (c): `ENCPOS <= SPOS <= SLEN`. -/
abbrev PositionsOrdered (s : State) : Prop :=
  s.encpos.toNat ≤ s.spos.toNat ∧ s.spos.toNat ≤ s.slen.toNat

/-- R56 (d): an open sample has a key. -/
abbrev SampleHasKey (s : State) : Prop := s.phase = .sample → s.keyv = true

/-- R56 (e): in an open sample with the pattern active PATPOS lies in its group. -/
abbrev PatternInGroup (s : State) : Prop :=
  s.phase = .sample → s.crypt ≠ 0 → s.patpos.toNat < s.crypt.toNat + s.skip.toNat

/-- R56 (f): after an 8-byte IV the upper half of IV is zero. -/
abbrev ShortIvPadded (s : State) : Prop :=
  s.iv16 = false → s.iv.c2 = Quad.zero ∧ s.iv.c3 = Quad.zero

/-- R61 to R63: the stream indices lie in their streams and DOP = DIP. -/
abbrev StreamsAligned (s : State) : Prop :=
  s.cpc ≤ s.cmd.length ∧ s.dip ≤ s.din.length ∧ s.dout.length = s.dip

/-- The invariants of R56 (a) to (f), with those of R63 and R241. -/
abbrev EngineInv (s : State) : Prop :=
  FaultCodeRecorded s ∧ FaultCodeRaised s ∧ EmptySlotZero s ∧ PositionsOrdered s ∧
    SampleHasKey s ∧ PatternInGroup s ∧ ShortIvPadded s ∧ StreamsAligned s

/-! ### Runs -/

/-- The state after one step; every step has a next state. -/
def nextState (s : State) : State :=
  match step s with
  | .next t => t
  | .fault _ => s
  | .refused _ => s

/-- The state after `k` steps. -/
def afterSteps : Nat → State → State
  | 0, s => s
  | k + 1, s => afterSteps k (nextState s)

/-- The end of a successful run (R10, R252): PHASE = DONE. -/
abbrev RunSucceeded (s : State) : Prop := s.phase = .done

/-- The end of a failed run (R10): PHASE = FAULT. -/
abbrev RunFailed (s : State) : Prop := s.phase = .fault

/-- The two states differ at most in KEY and in the bytes, not the number, of DOUT (R28: DOUT carries
plaintext, which depends on the key). -/
def SameButKey (s t : State) : Prop :=
  t = { s with key := t.key, dout := t.dout } ∧ t.dout.length = s.dout.length

/-! ### The rules' own formulas -/

/-- The number of a byte sequence, most significant byte first: `be64`, `be128` (R7). -/
def beNat : List Byte → Nat
  | [] => 0
  | b :: bs => b.toNat * 256 ^ bs.length + beNat bs

/-- `KS[j] = AES128_Enc(KEY, CtrBlk(j div 16))[j mod 16]` (R171). -/
def ksByte (carry : CarryBits) (key iv : Block) (j : Nat) : Byte :=
  (aesEnc key (ctrBlk carry iv (j / 16))).toList.getD (j % 16) 0

/-- The bytes `C[i] xor KS[e + i]` of R172. -/
def xorKeystream (carry : CarryBits) (key iv : Block) (e : Nat) (c : List Byte) : List Byte :=
  c.mapIdx (fun i b => b ^^^ ksByte carry key iv (e + i))

/-- Byte `b` rotated left by `n`. -/
def rotlByte (b : Byte) (n : Nat) : Byte := b.rotateLeft n

/-- The affine map of the definition in R215, applied to `t`. -/
def sboxAffine (t : Byte) : Byte :=
  t ^^^ rotlByte t 1 ^^^ rotlByte t 2 ^^^ rotlByte t 3 ^^^ rotlByte t 4 ^^^ 0x63

/-- `w[i]` of R222: word `i mod 4` of round key `i div 4`. -/
def keyWord (key : Block) (i : Nat) : Quad :=
  quadOfBytes (((roundKeys key).getD (i / 4) Block.zero).toList.drop (4 * (i % 4)))

/-- `RC[i]` of R217, for i from 1. -/
def roundConstant (i : Nat) : Byte := roundConstants.getD (i - 1) 0

/-- The chaining value of block `k` of a range in the pattern-active walk that enters it with PATPOS =
`pos` and CHAIN = `chain` (R194, R195): IV where a group starts, else the previous ciphertext block. -/
def patternChain (iv chain : Block) (g pos : Nat) (cs : List Block) (k : Nat) : Block :=
  if (pos + k) % g = 0 then iv else if k = 0 then chain else cs.getD (k - 1) Block.zero

/-- The chaining value the same walk leaves (R192, R194): the last ciphertext block it decrypted, or the
CHAIN it found where it decrypted none; a skipped block leaves CHAIN as it is. -/
def patternEndChain (chain : Block) (y : Byte) (g pos : Nat) (cs : List Block) : Block :=
  ((cs.zipIdx.filter (fun c => (pos + c.2) % g < y.toNat)).map Prod.fst).getLastD chain

end Sys2Proof.Machine
end

