-- ==== Sys2Proof/Certificates/Slice0/Obligations.lean ====
section
/-! DEFINITION. The statements for the provers. Every statement over a state ranges over its `params`, so
it speaks of all eight values of the OPEN parameters (notes/assumptions/1.md). -/

open Sys2Proof Sys2Proof.Machine

/-! ### Encoding (30_encoding.md) -/

/-- R91 to R93, R96, R97: decoding the words of a well-formed command, whatever follows them, gives the
command back. -/
def Obligations.DecodeOfEncode : Prop :=
  ∀ (i : Instr) (rest : List Word), i.wf = true → decode (encode i ++ rest) = .ok i

/-- R91 to R93, R96, R97: words that decode are the encoding of the command they decode to. -/
def Obligations.EncodeOfDecode : Prop :=
  ∀ (ws : List Word) (i : Instr), decode ws = .ok i →
    i.wf = true ∧ ws.take i.words = encode i

/-- R95, R96: the decode procedure and the match/mask rows of the opcode map agree on every header
word, and no word selects two rows. -/
def Obligations.HeaderDecodeAgreesWithOpcodeMap : Prop :=
  ∀ h : Word,
    (∀ hd, decodeHeader h = .ok hd →
      ∀ r ∈ opcodeMap, (h &&& r.mask = r.pattern ↔ r.mnemonic = headerMnemonic hd)) ∧
    ((∃ e, decodeHeader h = .error e) ↔ ∀ r ∈ opcodeMap, h &&& r.mask ≠ r.pattern)

/-- R93: bytes are packed most significant first, word by word, and unpacking undoes it; with the
rule's example. -/
def Obligations.PayloadPackingIsBigEndian : Prop :=
  (∀ q : Quad, (wordOfQuad q).toNat =
    q.r0.toNat * 2 ^ 24 + q.r1.toNat * 2 ^ 16 + q.r2.toNat * 2 ^ 8 + q.r3.toNat) ∧
  (∀ bs : List Byte, bs.length % 4 = 0 →
    (wordsOfBytes bs).length = bs.length / 4 ∧
    (∀ k, k < bs.length / 4 → (wordsOfBytes bs).getD k 0 =
      wordOfQuad ⟨bs.getD (4 * k) 0, bs.getD (4 * k + 1) 0, bs.getD (4 * k + 2) 0,
        bs.getD (4 * k + 3) 0⟩) ∧
    bytesOfWords (wordsOfBytes bs) = bs) ∧
  wordsOfBytes [0xff, 0xee, 0xdd, 0xcc, 0xbb, 0xaa, 0x99, 0x88, 0x77, 0x66, 0x55, 0x44, 0x33, 0x22,
    0x11, 0x00] = [0xffeeddcc, 0xbbaa9988, 0x77665544, 0x33221100]

/-- R101: the header word of each command, as the assembler table writes it. -/
def Obligations.HeaderWordFormulas : Prop :=
  encode .nop = [0x00000000] ∧ encode .endSample = [0x60000000] ∧ encode .fin = [0x70000000] ∧
  (∀ b, (encode (.ldkid b)).head? = some 0x10000000) ∧
  (∀ b, (encode (.ldkey b)).head? = some 0x20000000) ∧
  (∀ n c k, encode (.cfg n c k) = [BitVec.ofNat 32
    (0x30000000 + (schemeNameBits n).toNat * 2 ^ 24 + c.toNat * 2 ^ 8 + k.toNat)]) ∧
  (∀ a b l v, (encode (.beginSample a b l v)).take 2 =
    [BitVec.ofNat 32 (0x40000000 + a.toNat * 2 + b.toNat), l]) ∧
  (∀ c e, encode (.sub c e) = [BitVec.ofNat 32 (0x50000000 + c.toNat), e])

/-- Words of 95_test_vectors.md 3.1 decode to the commands they stand for. -/
def Obligations.ListedWordsDecode : Prop :=
  decode [0x00000000] = .ok .nop ∧
  decode [0x10000000, 0x00112233, 0x44556677, 0x8899aabb, 0xccddeeff] = .ok (.ldkid
    ⟨⟨0x00, 0x11, 0x22, 0x33⟩, ⟨0x44, 0x55, 0x66, 0x77⟩, ⟨0x88, 0x99, 0xaa, 0xbb⟩,
      ⟨0xcc, 0xdd, 0xee, 0xff⟩⟩) ∧
  decode [0x31000109] = .ok (.cfg .cbcs 1 9) ∧
  decode [0x40000001, 0x0000003a, 0x00010203, 0x04050607] =
    .ok (.beginSample false true 58 [0, 1, 2, 3, 4, 5, 6, 7]) ∧
  decode [0x5000ffff, 0xffffffff] = .ok (.sub 65535 4294967295) ∧
  decode [0x60000000] = .ok .endSample

/-- R101: whatever text the assembler accepts stands for commands that have an encoding. -/
def Obligations.AssembledCommandsAreWellFormed : Prop :=
  ∀ (line : List Char) (l : List Instr), assembleLine line = some l → ∀ i ∈ l, i.wf = true

/-! ### The step and its outcomes (R9, R140, 60_exceptions.md) -/

/-- R140: where the words at CPC decode to a command, the step is that command's meaning. -/
def Obligations.StepRunsDecodedCommand : Prop :=
  ∀ (s : State) (i : Instr), decode (s.cmd.drop s.cpc) = .ok i → step s = exec i s

/-- Every step has a next state: no command word and no state ends the model in a fault or refusal of
its own. That a hold and a halted engine answer a next state is the model's choice
(notes/assumptions/2.md). -/
def Obligations.EveryStepHasNextState : Prop := ∀ s : State, ∃ t, step s = .next t

/-- R252, R98: in DONE and FAULT the outcome is halted and nothing changes. That it is answered as a next
state is the model's choice (notes/assumptions/2.md). -/
def Obligations.HaltedEngineStandsStill : Prop :=
  ∀ (s : State) (i : Instr), s.phase = .done ∨ s.phase = .fault →
    stepOutcome s = .halted ∧ step s = .next s ∧ exec i s = .next s

/-- R95, R99, R140 step 3: a header word that selects no row of the opcode map raises IllegalCommand at
once, whatever follows it. -/
def Obligations.UnlistedHeaderRaisesIllegalCommand : Prop :=
  ∀ (s : State) (h : Word) (p : List Word), s.phase = .idle ∨ s.phase = .sample →
    s.cmd.drop s.cpc = h :: p → (∀ r ∈ opcodeMap, h &&& r.mask ≠ r.pattern) →
      step s = .next { s with fcode := 8, phase := .fault }

/-- R97, R140 steps 2 and 4: while the header word or a payload word is missing the step is
`hold(cmd)` and changes nothing. -/
def Obligations.MissingWordsHold : Prop :=
  ∀ s : State, s.phase = .idle ∨ s.phase = .sample →
    (s.cmd.drop s.cpc = [] ∨
      ∃ h hd p, s.cmd.drop s.cpc = h :: p ∧ decodeHeader h = .ok hd ∧ p.length < npay hd) →
    stepOutcome s = .holdCmd ∧ step s = .next s

/-- R250: a step that faults writes FCODE and PHASE and nothing else, and the `fault` output becomes 1;
the fault is one of the four the engine raises, with its code of R240. -/
def Obligations.FaultEntryWritesCodeAndPhaseOnly : Prop :=
  ∀ (s : State) (f : FaultKind), stepOutcome s = .fault f →
    (∃ t, step s = .next t ∧ t = { s with fcode := faultCode f, phase := .fault } ∧
      faultOutput t = true) ∧
    (f = .malformedAuxInfo ∧ faultCode f = 5 ∨ f = .missingKey ∧ faultCode f = 6 ∨
      f = .unalignedCipherBlock ∧ faultCode f = 7 ∨ f = .illegalCommand ∧ faultCode f = 8)

/-- R75, R140 step 6: whether a command faults does not depend on the data. -/
def Obligations.FaultsDoNotWaitForData : Prop :=
  ∀ (s : State) (f : FaultKind) (bs : List Byte) (n : Nat), stepOutcome s = .fault f →
    stepOutcome { s with din := bs, dip := n } = .fault f

/-- R140 step 7, R258: a step is `hold(din)` only for a data command whose bytes have not all arrived,
and then changes nothing. That a hold is answered as a next state is the model's choice
(notes/assumptions/2.md). -/
def Obligations.DataHoldOnlyWhileBytesAreMissing : Prop :=
  ∀ s : State, stepOutcome s = .holdDin →
    step s = .next s ∧
    ((∃ a l v, decode (s.cmd.drop s.cpc) = .ok (.beginSample a false l v) ∧
        s.din.length < s.dip + l.toNat) ∨
      (∃ c e, decode (s.cmd.drop s.cpc) = .ok (.sub c e) ∧
        s.din.length < s.dip + (c.toNat + e.toNat)))

/-- R98: which command is legal in which phase; a decoded command in a phase that makes it illegal raises
IllegalCommand; in DONE and FAULT nothing is decoded. -/
def Obligations.PhaseLegality : Prop :=
  ∀ (i : Instr) (s : State),
    (instrOutcome i s = .fault .illegalCommand ↔
      (s.phase = .idle ∧ (i = .endSample ∨ ∃ c e, i = .sub c e)) ∨
      (s.phase = .sample ∧
        ((∃ k, i = .ldkid k) ∨ (∃ k, i = .ldkey k) ∨ (∃ n c k, i = .cfg n c k) ∨
          (∃ a b l v, i = .beginSample a b l v) ∨ i = .fin ∨
          (s.usesub = false ∧ ∃ c e, i = .sub c e)))) ∧
    (instrOutcome i s = .halted ↔ s.phase = .done ∨ s.phase = .fault) ∧
    (s.phase = .done ∨ s.phase = .fault → stepOutcome s = .halted) ∧
    (instrOutcome i s = .fault .illegalCommand →
      exec i s = .next { s with fcode := 8, phase := .fault })

/-! ### Where BEGIN, SUB and END trap or wait (R141 to R143, R248) -/

/-- R141, R248: BEGIN in IDLE raises MissingKey without a key, else UnalignedCipherBlock for an unaligned
CBCS sample without a subsample list, else holds while DIN lacks the sample. That the hold is
answered as a next state is the model's choice (notes/assumptions/2.md). -/
def Obligations.BeginTrapsAndWaits : Prop :=
  ∀ (s : State) (a b : Bool) (l : Word) (v : List Byte), s.phase = .idle →
    (s.keyv = false →
      exec (.beginSample a b l v) s = .next { s with fcode := 6, phase := .fault }) ∧
    (s.keyv = true → b = false → s.scheme = .cbcs → l.toNat % 16 ≠ 0 →
      exec (.beginSample a b l v) s = .next { s with fcode := 7, phase := .fault }) ∧
    (s.keyv = true → b = false → (s.scheme = .cenc ∨ l.toNat % 16 = 0) → 0 < l.toNat →
      s.din.length < s.dip + l.toNat → exec (.beginSample a b l v) s = .next s)

/-- R142, R248: SUB in an open sample with a subsample list raises MalformedAuxInfo when the pair overruns
the sample, else UnalignedCipherBlock for an unaligned CBCS range, else holds while DIN lacks bytes. That the
hold is answered as a next state is the model's choice (notes/assumptions/2.md). -/
def Obligations.SubTrapsAndWaits : Prop :=
  ∀ (s : State) (c : BitVec 16) (e : Word), s.phase = .sample → s.usesub = true →
    (s.slen.toNat < s.spos.toNat + c.toNat + e.toNat →
      exec (.sub c e) s = .next { s with fcode := 5, phase := .fault }) ∧
    (s.spos.toNat + c.toNat + e.toNat ≤ s.slen.toNat → s.scheme = .cbcs → e.toNat % 16 ≠ 0 →
      exec (.sub c e) s = .next { s with fcode := 7, phase := .fault }) ∧
    (s.spos.toNat + c.toNat + e.toNat ≤ s.slen.toNat → (s.scheme = .cenc ∨ e.toNat % 16 = 0) →
      0 < c.toNat + e.toNat → s.din.length < s.dip + (c.toNat + e.toNat) →
      exec (.sub c e) s = .next s)

/-- R143: END of a sample whose pairs do not add up raises MalformedAuxInfo. -/
def Obligations.EndOfShortSampleFaults : Prop :=
  ∀ s : State, s.phase = .sample → s.spos ≠ s.slen →
    exec .endSample s = .next { s with fcode := 5, phase := .fault }

/-! ### What each command does where it completes (R120 to R123, R141 to R144) -/

/-- R120: NOP changes nothing but CPC. -/
def Obligations.NopOnlyAdvances : Prop :=
  ∀ s : State, s.phase = .idle ∨ s.phase = .sample →
    exec .nop s = .next { s with cpc := s.cpc + 1 }

/-- R121: LDKID loads KID, empties the key slot, and changes nothing else. -/
def Obligations.LdkidLoadsKeyIdAndEmptiesSlot : Prop :=
  ∀ (s : State) (b : Block), s.phase = .idle →
    exec (.ldkid b) s = .next { s with kid := b, key := Block.zero, keyv := false, cpc := s.cpc + 5 }

/-- R122: LDKEY loads KEY, sets KEYV, and changes nothing else. -/
def Obligations.LdkeyLoadsKey : Prop :=
  ∀ (s : State) (b : Block), s.phase = .idle →
    exec (.ldkey b) s = .next { s with key := b, keyv := true, cpc := s.cpc + 5 }

/-- R123: CFG stores the scheme and the counts; an alias stores its base scheme and zero counts. -/
def Obligations.CfgStoresSchemeAndCounts : Prop :=
  ∀ (s : State) (c k : Byte), s.phase = .idle →
    exec (.cfg .cenc c k) s =
      .next { s with scheme := .cenc, crypt := c, skip := k, cpc := s.cpc + 1 } ∧
    exec (.cfg .cbcs c k) s =
      .next { s with scheme := .cbcs, crypt := c, skip := k, cpc := s.cpc + 1 } ∧
    exec (.cfg .cens c k) s =
      .next { s with scheme := .cenc, crypt := 0, skip := 0, cpc := s.cpc + 1 } ∧
    exec (.cfg .cbc1 c k) s =
      .next { s with scheme := .cbcs, crypt := 0, skip := 0, cpc := s.cpc + 1 }

/-- R141: BEGIN with a subsample list opens the sample and moves no byte. -/
def Obligations.BeginWithListOpensSample : Prop :=
  ∀ (s : State) (a : Bool) (l : Word) (v : List Byte), s.phase = .idle → s.keyv = true →
    exec (.beginSample a true l v) s = .next { s with
      iv16 := a, usesub := true, slen := l, iv := padIv v, chain := padIv v, spos := 0, encpos := 0,
      patpos := 0, phase := .sample, cpc := s.cpc + if a then 6 else 4 }

/-- R141, R149, R172: BEGIN without a subsample list in CENC xors the whole sample with the keystream.
Counter mode and AES as the spec writes them (notes/assumptions/6.md). -/
def Obligations.BeginWholeCencSample : Prop :=
  ∀ (s : State) (a : Bool) (l : Word) (v : List Byte), s.phase = .idle → s.keyv = true →
    s.scheme = .cenc → s.dip + l.toNat ≤ s.din.length →
    exec (.beginSample a false l v) s = .next { s with
      iv16 := a, usesub := false, slen := l, iv := padIv v, chain := padIv v, spos := l, encpos := l,
      patpos := 0, phase := .sample, cpc := s.cpc + (if a then 6 else 4), dip := s.dip + l.toNat,
      dout := s.dout ++ xorKeystream s.params.ctrCarryBits s.key (padIv v) 0
        ((s.din.drop s.dip).take l.toNat) }

/-- R141, R149, R191: BEGIN without a subsample list in CBCS walks the whole sample from CHAIN = IV and
PATPOS = 0.
CBC and AES as the spec writes them (notes/assumptions/6.md). -/
def Obligations.BeginWholeCbcsSample : Prop :=
  ∀ (s : State) (a : Bool) (l : Word) (v : List Byte), s.phase = .idle → s.keyv = true →
    s.scheme = .cbcs → l.toNat % 16 = 0 → s.dip + l.toNat ≤ s.din.length →
    ∃ w, w = cbcsWalk s.params s.key (padIv v) s.crypt s.skip (padIv v) 0
        (blocksOf (l.toNat / 16) (s.din.drop s.dip)) ∧
      exec (.beginSample a false l v) s = .next { s with
        iv16 := a, usesub := false, slen := l, iv := padIv v, chain := w.chain, spos := l, encpos := l,
        patpos := w.patpos, phase := .sample, cpc := s.cpc + (if a then 6 else 4),
        dip := s.dip + l.toNat, dout := s.dout ++ bytesOfBlocks w.blocks }

/-- R142, R145, R172: SUB in CENC copies the clear bytes and xors the encrypted ones with the keystream
from ENCPOS on.
Counter mode and AES as the spec writes them (notes/assumptions/6.md). -/
def Obligations.SubInCenc : Prop :=
  ∀ (s : State) (c : BitVec 16) (e : Word), s.phase = .sample → s.usesub = true →
    s.scheme = .cenc → s.spos.toNat + c.toNat + e.toNat ≤ s.slen.toNat →
    s.dip + (c.toNat + e.toNat) ≤ s.din.length →
    exec (.sub c e) s = .next { s with
      spos := s.spos + c.setWidth 32 + e, encpos := s.encpos + e, cpc := s.cpc + 2,
      dip := s.dip + (c.toNat + e.toNat),
      dout := s.dout ++ (s.din.drop s.dip).take c.toNat ++
        xorKeystream s.params.ctrCarryBits s.key s.iv s.encpos.toNat
          ((s.din.drop (s.dip + c.toNat)).take e.toNat) }

/-- R142, R145, R191: SUB in CBCS copies the clear bytes and walks the encrypted blocks from the CHAIN and
PATPOS it finds.
CBC and AES as the spec writes them (notes/assumptions/6.md). -/
def Obligations.SubInCbcs : Prop :=
  ∀ (s : State) (c : BitVec 16) (e : Word), s.phase = .sample → s.usesub = true →
    s.scheme = .cbcs → s.spos.toNat + c.toNat + e.toNat ≤ s.slen.toNat → e.toNat % 16 = 0 →
    s.dip + (c.toNat + e.toNat) ≤ s.din.length →
    ∃ w, w = cbcsWalk s.params s.key s.iv s.crypt s.skip s.chain s.patpos
        (blocksOf (e.toNat / 16) (s.din.drop (s.dip + c.toNat))) ∧
      exec (.sub c e) s = .next { s with
        spos := s.spos + c.setWidth 32 + e, encpos := s.encpos + e, cpc := s.cpc + 2,
        dip := s.dip + (c.toNat + e.toNat), chain := w.chain, patpos := w.patpos,
        dout := s.dout ++ (s.din.drop s.dip).take c.toNat ++ bytesOfBlocks w.blocks }

/-- R143: END of a complete sample closes it and counts it. -/
def Obligations.EndClosesCompleteSample : Prop :=
  ∀ s : State, s.phase = .sample → s.spos = s.slen →
    exec .endSample s = .next { s with
      phase := .idle, sidx := BitVec.ofNat 32 ((s.sidx.toNat + 1) % 2 ^ 32), cpc := s.cpc + 1 }

/-- R144: FIN ends the run, discards the key, and changes nothing else; `done` rises. -/
def Obligations.FinEndsRun : Prop :=
  ∀ s : State, s.phase = .idle →
    ∃ t, exec .fin s = .next t ∧ doneOutput t = true ∧
      t = { s with phase := .done, key := Block.zero, keyv := false, cpc := s.cpc + 1 }

/-- R147: in both schemes the stored IV stands at the low indices of IV and zero bytes fill it up to
16. -/
def Obligations.StoredIvIsPaddedOnTheRight : Prop :=
  ∀ (v : List Byte) (a b : Bool) (l : Word) (s : State), v.length = storedIvLen a →
    instrOutcome (.beginSample a b l v) s = .ok →
    ∃ t, exec (.beginSample a b l v) s = .next t ∧
      t.iv.toList = v ++ List.replicate (16 - v.length) 0

/-- R149: BEGIN without a subsample list is BEGIN with one followed by `SUB 0, SLEN`, but for USESUB and
the second command's CPC; an unaligned CBCS sample raises UnalignedCipherBlock. -/
def Obligations.NoListIsOneWholeRange : Prop :=
  ∀ (s s0 : State) (a : Bool) (l : Word) (v : List Byte),
    (instrOutcome (.beginSample a false l v) s = .ok → exec (.beginSample a false l v) s = .next s0 →
      ∃ s1, exec (.beginSample a true l v) s = .next s1 ∧
        exec (.sub 0 l) s1 = .next { s0 with usesub := true, cpc := s0.cpc + 2 } ∧
        instrOutcome (.sub 0 l) s0 = .fault .illegalCommand) ∧
    (s.phase = .idle → s.keyv = true → s.scheme = .cbcs → l.toNat % 16 ≠ 0 →
      instrOutcome (.beginSample a false l v) s = .fault .unalignedCipherBlock)

/-! ### The CENC path (42_cenc_ctr.md) -/

/-- R170: the counter block as a number: the carry confined to 64 or to 128 bits; block 0 is the IV; with
the upper half of IV zero the index stands there and the stored half is not altered.
Counter mode and AES as the spec writes them (notes/assumptions/6.md). -/
def Obligations.CounterBlockIsIvPlusIndex : Prop :=
  ∀ (iv : Block) (b : Nat),
    ((ctrBlk .bits64 iv b).toList.take 8 = iv.toList.take 8 ∧
      beNat ((ctrBlk .bits64 iv b).toList.drop 8) = (beNat (iv.toList.drop 8) + b) % 2 ^ 64) ∧
    beNat (ctrBlk .bits128 iv b).toList = (beNat iv.toList + b) % 2 ^ 128 ∧
    ctrBlk .bits64 iv 0 = iv ∧ ctrBlk .bits128 iv 0 = iv ∧
    (iv.c2 = Quad.zero → iv.c3 = Quad.zero → b < 2 ^ 64 → ∀ carry,
      (ctrBlk carry iv b).toList.take 8 = iv.toList.take 8 ∧
      beNat ((ctrBlk carry iv b).toList.drop 8) = b)

/-- R176: the two carry widths give the same counter block exactly while the low half does not
overflow.
Counter mode and AES as the spec writes them (notes/assumptions/6.md). -/
def Obligations.CarryWidthsDifferExactlyOnOverflow : Prop :=
  ∀ (iv : Block) (b : Nat), b < 2 ^ 28 →
    (ctrBlk .bits64 iv b = ctrBlk .bits128 iv b ↔ beNat (iv.toList.drop 8) + b < 2 ^ 64)

/-- R172: the block-wise keystream gives, byte by byte, `P[i] = C[i] xor KS[e + i]`, and the range that
uses it advances ENCPOS by its length.
Counter mode and AES as the spec writes them (notes/assumptions/6.md). -/
def Obligations.CencRangeIsBytewiseXor : Prop :=
  (∀ (carry : CarryBits) (key iv : Block) (e : Nat) (c : List Byte),
    cencRange carry key iv e c = xorKeystream carry key iv e c ∧
    cencRange carry key iv e [] = []) ∧
  ∀ (n : Nat) (s : State), s.scheme = .cenc → s.encpos.toNat + n < 2 ^ 32 →
    (range n s).encpos.toNat = s.encpos.toNat + n ∧
    (range n s).dout = s.dout ++
      xorKeystream s.params.ctrCarryBits s.key s.iv s.encpos.toNat (dinBytes n s)

/-- R173: two ranges are decrypted as one range of their total length; a range starts at the keystream
byte that follows the last one the range before it used, whatever clear bytes lie between.
Counter mode and AES as the spec writes them (notes/assumptions/6.md). -/
def Obligations.KeystreamContinuesAcrossRanges : Prop :=
  (∀ (carry : CarryBits) (key iv : Block) (e : Nat) (c d : List Byte),
    cencRange carry key iv e (c ++ d) =
      cencRange carry key iv e c ++ cencRange carry key iv (e + c.length) d) ∧
  ∀ (s : State) (n c m : Nat), s.scheme = .cenc → s.encpos.toNat + n < 2 ^ 32 →
    (range m (copyClear c (range n s))).dout = s.dout ++
      xorKeystream s.params.ctrCarryBits s.key s.iv s.encpos.toNat (dinBytes n s) ++
      dinBytes c (range n s) ++
      xorKeystream s.params.ctrCarryBits s.key s.iv (s.encpos.toNat + n)
        (dinBytes m (copyClear c (range n s)))

/-- R178: the CENC path is its own inverse.
Counter mode and AES as the spec writes them (notes/assumptions/6.md). -/
def Obligations.CencRangeIsItsOwnInverse : Prop :=
  ∀ (carry : CarryBits) (key iv : Block) (e : Nat) (c : List Byte),
    cencRange carry key iv e (cencRange carry key iv e c) = c

/-- R177: with SCHEME = 0 no command but CFG, which writes them, depends on CRYPT or SKIP; every byte of a
range is xored with keystream, whatever they hold; `cens` is `cenc` with both counts zero.
Counter mode and AES as the spec writes them (notes/assumptions/6.md). -/
def Obligations.CencIgnoresPatternRegisters : Prop :=
  (∀ (s t : State) (i : Instr) (c k : Byte), s.scheme = .cenc → (∀ n x y, i ≠ .cfg n x y) →
    exec i s = .next t →
    exec i { s with crypt := c, skip := k } = .next { t with crypt := c, skip := k }) ∧
  (∀ (s : State) (n : Nat) (c k : Byte), s.scheme = .cenc →
    (range n { s with crypt := c, skip := k }).dout = s.dout ++
      xorKeystream s.params.ctrCarryBits s.key s.iv s.encpos.toNat (dinBytes n s)) ∧
  ∀ (s : State) (c k : Byte), s.phase = .idle →
    exec (.cfg .cens c k) s = exec (.cfg .cenc 0 0) s

/-! ### The CBCS path (43_cbcs_pattern.md) -/

/-- R193: with CRYPT = 0 every block is decrypted and chained with the one before it, the first with the
CHAIN at entry, which is IV where CBC_RANGE_RESTART is true; CHAIN ends as the last ciphertext block;
SKIP is not read and PATPOS not read or written.
CBC and AES as the spec writes them (notes/assumptions/6.md). -/
def Obligations.PlainRangeChainsContinuously : Prop :=
  ∀ (p : Params) (key iv chain : Block) (skip : Byte) (pos : BitVec 9) (cs : List Block) (first : Block),
    first = (if p.cbcRangeRestart then iv else chain) →
    cbcsWalk p key iv 0 skip chain pos cs =
      ⟨cs.mapIdx (fun k c => (aesDec key c).xor (if k = 0 then first else cs.getD (k - 1) Block.zero)),
        cs.getLastD first, pos⟩

/-- R190, R191, R194, R195, R196, R198: with CRYPT ≠ 0 the range is walked by the pattern, whatever SKIP is.
It starts at position `e` of its group, 0 where PAT_RANGE_RESTART is true and else the PATPOS found. Block
`k` is decrypted exactly when it lies among the first CRYPT of its group, chained with IV where a group
starts; the others are copied; PATPOS counts on; CHAIN ends as the last block decrypted, or as found.
CBC and AES as the spec writes them (notes/assumptions/6.md). -/
def Obligations.PatternRangeDecryptsByPosition : Prop :=
  ∀ (p : Params) (key iv chain : Block) (y z : Byte) (pos : BitVec 9) (cs : List Block) (e g : Nat)
    (w : Walk),
    y ≠ 0 → e = (if p.patRangeRestart then 0 else pos.toNat) → g = y.toNat + z.toNat → e < g →
    w = cbcsWalk p key iv y z chain pos cs →
    w.blocks = cs.mapIdx (fun k c =>
      if (e + k) % g < y.toNat then (aesDec key c).xor (patternChain iv chain g e cs k) else c) ∧
    w.patpos.toNat = (e + cs.length) % g ∧
    w.chain = patternEndChain chain y g e cs

/-- R196, R197: for the first encrypted range of a sample, which is entered with CHAIN = IV and
PATPOS = 0, the OPEN parameters make no difference.
CBC and AES as the spec writes them (notes/assumptions/6.md). -/
def Obligations.FirstRangeIgnoresRestartParameters : Prop :=
  ∀ (p q : Params) (key iv : Block) (y z : Byte) (cs : List Block),
    cbcsWalk p key iv y z iv 0 cs = cbcsWalk q key iv y z iv 0 cs

/-- R202: the engine's walk over what the complementary encryption produced gives the plaintext back and
ends with the same CHAIN and PATPOS.
CBC and AES as the spec writes them (notes/assumptions/6.md). -/
def Obligations.CbcsWalkUndoesComplementaryEncryption : Prop :=
  ∀ (p : Params) (key iv chain : Block) (y z : Byte) (pos : BitVec 9) (ps : List Block),
    cbcsWalk p key iv y z chain pos (cbcsWalkEnc p key iv y z chain pos ps).blocks =
      { cbcsWalkEnc p key iv y z chain pos ps with blocks := ps }

/-! ### The block cipher (44_aes128_block.md) -/

/-- R210: the constant multiplications are multiplication of polynomials, and the rule's examples.
AES as the spec writes it (notes/assumptions/6.md). -/
def Obligations.FieldMultiplications : Prop :=
  (∀ a : Byte, gmul a 0x01 = a ∧ gmul a 0x02 = mul02 a ∧ gmul a 0x03 = mul03 a ∧
    gmul a 0x09 = mul09 a ∧ gmul a 0x0b = mul0b a ∧ gmul a 0x0d = mul0d a ∧ gmul a 0x0e = mul0e a) ∧
  xtime 0x57 = 0xae ∧ gmul 0x57 0x13 = 0xfe ∧ gmul 0x57 0x83 = 0xc1

/-- R215, R216: SBOX is the affine map of the multiplicative inverse, and INVSBOX undoes it.
AES as the spec writes it (notes/assumptions/6.md). -/
def Obligations.SboxIsAffineOfInverse : Prop :=
  ∀ a : Byte, (∃ t, (if a = 0 then t = 0 else gmul a t = 1) ∧ sbox a = sboxAffine t) ∧
    invSbox (sbox a) = a ∧ sbox (invSbox a) = a

/-- R217, R222: the round keys are the words `w[0..43]` of the key expansion's recurrence, and the round
constants are the powers of x.
AES as the spec writes it (notes/assumptions/6.md). -/
def Obligations.KeyExpansionRecurrence : Prop :=
  (roundConstant 1 = 0x01 ∧ ∀ i, 1 ≤ i → i < 10 → roundConstant (i + 1) = xtime (roundConstant i)) ∧
  ∀ key : Block,
    (roundKeys key).length = 11 ∧ (roundKeys key).head? = some key ∧
    (∀ i, i < 4 → keyWord key i = quadOfBytes (key.toList.drop (4 * i))) ∧
    (∀ i, 4 ≤ i → i < 44 → keyWord key i = (keyWord key (i - 4)).xor
      (if i % 4 = 0 then keyCore (keyWord key (i - 1)) (roundConstant (i / 4))
        else keyWord key (i - 1)))

/-- R211, R223, R224: the row rotations by index.
AES as the spec writes it (notes/assumptions/6.md). -/
def Obligations.ShiftRowsByIndex : Prop :=
  ∀ (b : Block) (r c : Nat), r < 4 → c < 4 →
    (shiftRows b).toList.getD (r + 4 * c) 0 = b.toList.getD (r + 4 * ((c + r) % 4)) 0 ∧
    (invShiftRows b).toList.getD (r + 4 * c) 0 = b.toList.getD (r + 4 * ((c + 4 - r) % 4)) 0

/-- R228: for every key the forward and the inverse cipher undo each other.
AES as the spec writes it (notes/assumptions/6.md). -/
def Obligations.AesDecInvertsAesEnc : Prop :=
  ∀ key b : Block, aesDec key (aesEnc key b) = b ∧ aesEnc key (aesDec key b) = b

/-- R229: the two published examples and the source's key on the zero block.
AES as the spec writes it (notes/assumptions/6.md). -/
def Obligations.AesPublishedExamples : Prop :=
  aesEnc (blockOfWords 0x2b7e1516 0x28aed2a6 0xabf71588 0x09cf4f3c)
      (blockOfWords 0x3243f6a8 0x885a308d 0x313198a2 0xe0370734) =
    blockOfWords 0x3925841d 0x02dc09fb 0xdc118597 0x196a0b32 ∧
  aesEnc (blockOfWords 0x00010203 0x04050607 0x08090a0b 0x0c0d0e0f)
      (blockOfWords 0x00112233 0x44556677 0x8899aabb 0xccddeeff) =
    blockOfWords 0x69c4e0d8 0x6a7b0430 0xd8cdb780 0x70b4c55a ∧
  aesEnc (blockOfWords 0xffeeddcc 0xbbaa9988 0x77665544 0x33221100) Block.zero =
    blockOfWords 0xebc95850 0x798949f8 0x5130f30d 0x37b7e2f5 ∧
  aesDec (blockOfWords 0xffeeddcc 0xbbaa9988 0x77665544 0x33221100) Block.zero =
    blockOfWords 0xac371711 0x2a9fddc7 0x38692f97 0xe219c356

/-! ### The REG port (10_state.md R28, R46) -/

/-- R46, R28: what every register number reads; no number reads any bit of KEY. -/
def Obligations.RegisterPortMap : Prop :=
  ∀ s : State,
    (regRead 0x00 s).toNat = (phaseBits s.phase).toNat + 4 * s.keyv.toNat + 8 * s.usesub.toNat +
      16 * s.iv16.toNat + 2 ^ 8 * s.fcode.toNat ∧
    (regRead 0x01 s).toNat =
      2 ^ 24 * (schemeBit s.scheme).toNat + 2 ^ 8 * s.crypt.toNat + s.skip.toNat ∧
    regRead 0x02 s = s.slen ∧ regRead 0x03 s = s.spos ∧ regRead 0x04 s = s.encpos ∧
    (regRead 0x05 s).toNat = s.patpos.toNat ∧ regRead 0x06 s = s.sidx ∧ regRead 0x07 s = 0 ∧
    (∀ k, k < 4 →
      (regRead (BitVec.ofNat 6 (0x08 + k)) s).toNat = beNat ((s.kid.toList.drop (4 * k)).take 4) ∧
      (regRead (BitVec.ofNat 6 (0x0C + k)) s).toNat = beNat ((s.iv.toList.drop (4 * k)).take 4) ∧
      (regRead (BitVec.ofNat 6 (0x10 + k)) s).toNat = beNat ((s.chain.toList.drop (4 * k)).take 4)) ∧
    (∀ n : BitVec 6, 0x14 ≤ n.toNat → regRead n s = 0)

/-- R28: the four numbers reserved for KEY read as zero, and two engines that differ only in KEY and in
output bytes still do so after a step, so no register read and no output signal ever tells their keys
apart. -/
def Obligations.KeyReachesOnlyOutputBytes : Prop :=
  (∀ (s : State) (n : BitVec 6), 0x14 ≤ n.toNat → n.toNat ≤ 0x17 → regRead n s = 0) ∧
  ∀ s t s' t' : State, SameButKey s t → step s = .next s' → step t = .next t' →
    SameButKey s' t' ∧ (∀ n, regRead n s = regRead n t) ∧ (∀ n, regRead n s' = regRead n t') ∧
      doneOutput s' = doneOutput t' ∧ faultOutput s' = faultOutput t'

/-! ### The machine as a whole -/

/-- R56 (a) to (f), R63, R241: every step keeps the invariants, from every state that has them. -/
def Obligations.EveryStepKeepsInvariants : Prop :=
  ∀ s t : State, EngineInv s → step s = .next t → EngineInv t

/-- R20, R56: the invariants hold right after reset, whatever the parameters. -/
def Obligations.ResetMeetsInvariants : Prop := ∀ s : State, EngineInv (resetEngine s)

/-- R280: the reset, from every state: every register zero, CMD and DIN empty, a new run with an empty
DOUT, `done` and `fault` 0, and the engine on `hold(cmd)`. That `params` stays is the model's choice
(notes/assumptions/1.md). -/
def Obligations.ResetClearsEverything : Prop :=
  ∀ s : State,
    hostMove .reset s = some
      { kid := Block.zero, key := Block.zero, iv := Block.zero, chain := Block.zero,
        phase := .idle, fcode := 0, keyv := false, usesub := false, iv16 := false, scheme := .cenc,
        crypt := 0, skip := 0, slen := 0, spos := 0, encpos := 0, patpos := 0, sidx := 0,
        cmd := [], cpc := 0, din := [], dip := 0, dout := [], params := s.params } ∧
    doneOutput (resetEngine s) = false ∧ faultOutput (resetEngine s) = false ∧
    stepOutcome (resetEngine s) = .holdCmd

/-- R29: the numbers of PHASE, and its transitions, each where it happens: BEGIN, END and FIN where they
complete, any fault, and the reset, from any phase; and no others, of a step or of a move of the host. -/
def Obligations.PhaseTransitions : Prop :=
  (phaseBits .idle = 0 ∧ phaseBits .sample = 1 ∧ phaseBits .done = 2 ∧ phaseBits .fault = 3 ∧
    State.reset.phase = .idle) ∧
  (∀ s : State, ∃ t, hostMove .reset s = some t ∧ t.phase = .idle) ∧
  (∀ (m : HostMove) (s t : State), hostMove m s = some t → t.phase ≠ s.phase → m = .reset) ∧
  ∀ s t : State, step s = .next t →
    (∀ a b l v, fetch s = .ok (.beginSample a b l v) → stepOutcome s = .ok →
      s.phase = .idle ∧ t.phase = .sample) ∧
    (fetch s = .ok .endSample → stepOutcome s = .ok → s.phase = .sample ∧ t.phase = .idle) ∧
    (fetch s = .ok .fin → stepOutcome s = .ok → s.phase = .idle ∧ t.phase = .done) ∧
    (∀ f, stepOutcome s = .fault f → (s.phase = .idle ∨ s.phase = .sample) ∧ t.phase = .fault) ∧
    (t.phase ≠ s.phase →
      (stepOutcome s = .ok ∧ ((∃ a b l v, fetch s = .ok (.beginSample a b l v)) ∨
        fetch s = .ok .endSample ∨ fetch s = .ok .fin)) ∨
      ∃ f, stepOutcome s = .fault f)

/-- R21, R26, R27, R31 to R37: which commands write which register, and no step writes any other; CMD,
DIN and the parameters are never written. -/
def Obligations.OnlyTheirCommandsWriteRegisters : Prop :=
  ∀ s t : State, step s = .next t →
    (t.kid ≠ s.kid → ∃ k, fetch s = .ok (.ldkid k)) ∧
    (t.key ≠ s.key ∨ t.keyv ≠ s.keyv →
      (∃ k, fetch s = .ok (.ldkid k)) ∨ (∃ k, fetch s = .ok (.ldkey k)) ∨ fetch s = .ok .fin) ∧
    (t.scheme ≠ s.scheme ∨ t.crypt ≠ s.crypt ∨ t.skip ≠ s.skip →
      ∃ n c k, fetch s = .ok (.cfg n c k)) ∧
    (t.iv ≠ s.iv ∨ t.iv16 ≠ s.iv16 ∨ t.usesub ≠ s.usesub ∨ t.slen ≠ s.slen →
      ∃ a b l v, fetch s = .ok (.beginSample a b l v)) ∧
    (t.chain ≠ s.chain ∨ t.patpos ≠ s.patpos ∨ t.spos ≠ s.spos ∨ t.encpos ≠ s.encpos ∨
        t.dip ≠ s.dip ∨ t.dout ≠ s.dout →
      (∃ a b l v, fetch s = .ok (.beginSample a b l v)) ∨ ∃ c e, fetch s = .ok (.sub c e)) ∧
    (t.sidx ≠ s.sidx → fetch s = .ok .endSample) ∧
    (t.fcode ≠ s.fcode → ∃ f, stepOutcome s = .fault f ∧ t.fcode = faultCode f) ∧
    t.cmd = s.cmd ∧ t.din = s.din ∧ t.params = s.params

/-- R40, R97: CPC advances past a completed command and stands still otherwise. -/
def Obligations.CommandCounterAdvancesByLength : Prop :=
  ∀ s t : State, step s = .next t →
    (∀ i, fetch s = .ok i → stepOutcome s = .ok → t.cpc = s.cpc + (encode i).length) ∧
    (stepOutcome s ≠ .ok → t.cpc = s.cpc)

/-- R22: KID is only a tag: no step but LDKID depends on it. -/
def Obligations.KeyIdIsOnlyATag : Prop :=
  ∀ (s t : State) (k : Block), (∀ k', fetch s ≠ .ok (.ldkid k')) → step s = .next t →
    step { s with kid := k } = .next { t with kid := k }

/-- R63, R250: every step writes as many bytes as it reads, after those already written. -/
def Obligations.OutputLengthFollowsInput : Prop :=
  ∀ s t : State, step s = .next t →
    ∃ bs, t.dout = s.dout ++ bs ∧ t.dip = s.dip + bs.length ∧ (stepOutcome s ≠ .ok → bs = [])

/-- R148: from the BEGIN that opens a sample to the END that closes it, exactly SLEN bytes are read and
exactly SLEN written, however many commands stand between. -/
def Obligations.SampleMovesExactlySlenBytes : Prop :=
  ∀ (s t : State) (k : Nat), EngineInv s → s.phase = .idle →
    (∀ j, j ≤ k → (afterSteps (j + 1) s).phase = .sample) →
    t = afterSteps (k + 2) s → t.phase = .idle →
      t.dip = s.dip + t.slen.toNat ∧ t.dout.length = s.dout.length + t.slen.toNat

/-- R81, R295: over any number of steps that did not hold, words and bytes the host appends at the tails
change nothing but the tails. -/
def Obligations.LateAppendsChangeNoResult : Prop :=
  ∀ (k : Nat) (s : State) (ws : List Word) (bs : List Byte),
    (∀ j, j < k → stepOutcome (afterSteps j s) ≠ .holdCmd ∧ stepOutcome (afterSteps j s) ≠ .holdDin) →
    afterSteps k (appendCmd ws (appendDin bs s)) = appendCmd ws (appendDin bs (afterSteps k s))
end

