-- ==== Sys2Proof/Laws/Decode.lean ====
section
/-! SUPPORT. Byte packing and the two decoders, each spelled once: packing is undone by unpacking, and
what `decode` answers on a header followed by words. -/

namespace Sys2Proof

@[simp] theorem quadOfWord_wordOfQuad (q : Quad) : quadOfWord (wordOfQuad q) = q := by
  obtain ⟨a, b, c, d⟩ := q
  simp only [quadOfWord, wordOfQuad, Quad.mk.injEq]
  refine ⟨?_, ?_, ?_, ?_⟩ <;> ext i hi <;> simp only [BitVec.getElem_extractLsb', BitVec.getLsbD_append]
  all_goals
    repeat (first | rw [if_pos (by omega)] | rw [if_neg (by omega)] | split)
    all_goals first | omega | (rw [BitVec.getLsbD_eq_getElem (by omega)]; congr 1; omega)

@[simp] theorem wordOfQuad_quadOfWord (w : Word) : wordOfQuad (quadOfWord w) = w := by
  apply BitVec.eq_of_getLsbD_eq
  intro i hi
  simp only [wordOfQuad, quadOfWord, BitVec.getLsbD_append, BitVec.getLsbD_extractLsb']
  by_cases h1 : i < 8
  · simp [h1]
  · by_cases h2 : i < 16
    · simp [h1, show i - 8 < 8 by omega, show 8 + (i - 8) = i by omega]
    · by_cases h3 : i < 24
      · simp [h1, show ¬ i - 8 < 8 by omega, show i - 8 - 8 < 8 by omega,
          show 16 + (i - 8 - 8) = i by omega]
      · simp [h1, show ¬ i - 8 < 8 by omega, show ¬ i - 8 - 8 < 8 by omega,
          show i - 8 - 8 - 8 < 8 by omega, show 24 + (i - 8 - 8 - 8) = i by omega]

/-- The number of a concatenation. -/
theorem toNat_append_add {n m : Nat} (x : BitVec n) (y : BitVec m) :
    (x ++ y).toNat = x.toNat * 2 ^ m + y.toNat := by
  rw [BitVec.toNat_append, Nat.shiftLeft_eq, Nat.mul_comm, Nat.two_pow_add_eq_or_of_lt y.isLt]

/-- A field that lies in the upper part of a concatenation. -/
theorem extract_append_hi {n m : Nat} (x : BitVec n) (y : BitVec m) (s l : Nat) (h : m ≤ s) :
    (x ++ y).extractLsb' s l = x.extractLsb' (s - m) l := by
  ext i hi
  simp only [BitVec.getElem_extractLsb', BitVec.getLsbD_append]
  rw [if_neg (by omega)]
  congr 1
  omega

/-- A field that lies in the lower part of a concatenation. -/
theorem extract_append_lo {n m : Nat} (x : BitVec n) (y : BitVec m) (s l : Nat) (h : s + l ≤ m) :
    (x ++ y).extractLsb' s l = y.extractLsb' s l := by
  ext i hi
  simp only [BitVec.getElem_extractLsb', BitVec.getLsbD_append]
  rw [if_pos (by omega)]

@[simp] theorem decode_nil : decode [] = .error .incomplete := rfl

theorem decode_cons (h : Word) (p : List Word) :
    decode (h :: p) =
      match decodeHeader h with
      | .error r => .error r
      | .ok hd => if p.length < npay hd then .error .incomplete else .ok (assembleInstr hd p) := rfl

/-- A command's length is its header's payload count and one (R97). -/
theorem assembleInstr_words (h : Header) (p : List Word) :
    (assembleInstr h p).words = 1 + npay h := by
  cases h with
  | beginSample a b => cases a <;> rfl
  | _ => rfl

theorem wordsOfBlock_length (b : Block) : (wordsOfBlock b).length = 4 := rfl

end Sys2Proof
end

