-- ==== Sys2Proof/Laws/State.lean ====
section
/-! SUPPORT. What each named update of the state leaves in each field: one lemma per field per update,
true by rfl. -/

namespace Sys2Proof.Machine

/-! ### `raise` -/

@[simp] theorem raise_kid (f : FaultKind) (s : State) : (raise f s).kid = s.kid := rfl
@[simp] theorem raise_key (f : FaultKind) (s : State) : (raise f s).key = s.key := rfl
@[simp] theorem raise_iv (f : FaultKind) (s : State) : (raise f s).iv = s.iv := rfl
@[simp] theorem raise_chain (f : FaultKind) (s : State) : (raise f s).chain = s.chain := rfl
@[simp] theorem raise_phase (f : FaultKind) (s : State) : (raise f s).phase = .fault := rfl
@[simp] theorem raise_fcode (f : FaultKind) (s : State) : (raise f s).fcode = faultCode f := rfl
@[simp] theorem raise_keyv (f : FaultKind) (s : State) : (raise f s).keyv = s.keyv := rfl
@[simp] theorem raise_usesub (f : FaultKind) (s : State) : (raise f s).usesub = s.usesub := rfl
@[simp] theorem raise_iv16 (f : FaultKind) (s : State) : (raise f s).iv16 = s.iv16 := rfl
@[simp] theorem raise_scheme (f : FaultKind) (s : State) : (raise f s).scheme = s.scheme := rfl
@[simp] theorem raise_crypt (f : FaultKind) (s : State) : (raise f s).crypt = s.crypt := rfl
@[simp] theorem raise_skip (f : FaultKind) (s : State) : (raise f s).skip = s.skip := rfl
@[simp] theorem raise_slen (f : FaultKind) (s : State) : (raise f s).slen = s.slen := rfl
@[simp] theorem raise_spos (f : FaultKind) (s : State) : (raise f s).spos = s.spos := rfl
@[simp] theorem raise_encpos (f : FaultKind) (s : State) : (raise f s).encpos = s.encpos := rfl
@[simp] theorem raise_patpos (f : FaultKind) (s : State) : (raise f s).patpos = s.patpos := rfl
@[simp] theorem raise_sidx (f : FaultKind) (s : State) : (raise f s).sidx = s.sidx := rfl
@[simp] theorem raise_cmd (f : FaultKind) (s : State) : (raise f s).cmd = s.cmd := rfl
@[simp] theorem raise_cpc (f : FaultKind) (s : State) : (raise f s).cpc = s.cpc := rfl
@[simp] theorem raise_din (f : FaultKind) (s : State) : (raise f s).din = s.din := rfl
@[simp] theorem raise_dip (f : FaultKind) (s : State) : (raise f s).dip = s.dip := rfl
@[simp] theorem raise_dout (f : FaultKind) (s : State) : (raise f s).dout = s.dout := rfl
@[simp] theorem raise_params (f : FaultKind) (s : State) : (raise f s).params = s.params := rfl

/-! ### `consume` -/

@[simp] theorem consume_kid (n : Nat) (s : State) : (consume n s).kid = s.kid := rfl
@[simp] theorem consume_key (n : Nat) (s : State) : (consume n s).key = s.key := rfl
@[simp] theorem consume_iv (n : Nat) (s : State) : (consume n s).iv = s.iv := rfl
@[simp] theorem consume_chain (n : Nat) (s : State) : (consume n s).chain = s.chain := rfl
@[simp] theorem consume_phase (n : Nat) (s : State) : (consume n s).phase = s.phase := rfl
@[simp] theorem consume_fcode (n : Nat) (s : State) : (consume n s).fcode = s.fcode := rfl
@[simp] theorem consume_keyv (n : Nat) (s : State) : (consume n s).keyv = s.keyv := rfl
@[simp] theorem consume_usesub (n : Nat) (s : State) : (consume n s).usesub = s.usesub := rfl
@[simp] theorem consume_iv16 (n : Nat) (s : State) : (consume n s).iv16 = s.iv16 := rfl
@[simp] theorem consume_scheme (n : Nat) (s : State) : (consume n s).scheme = s.scheme := rfl
@[simp] theorem consume_crypt (n : Nat) (s : State) : (consume n s).crypt = s.crypt := rfl
@[simp] theorem consume_skip (n : Nat) (s : State) : (consume n s).skip = s.skip := rfl
@[simp] theorem consume_slen (n : Nat) (s : State) : (consume n s).slen = s.slen := rfl
@[simp] theorem consume_spos (n : Nat) (s : State) : (consume n s).spos = s.spos := rfl
@[simp] theorem consume_encpos (n : Nat) (s : State) : (consume n s).encpos = s.encpos := rfl
@[simp] theorem consume_patpos (n : Nat) (s : State) : (consume n s).patpos = s.patpos := rfl
@[simp] theorem consume_sidx (n : Nat) (s : State) : (consume n s).sidx = s.sidx := rfl
@[simp] theorem consume_cmd (n : Nat) (s : State) : (consume n s).cmd = s.cmd := rfl
@[simp] theorem consume_cpc (n : Nat) (s : State) : (consume n s).cpc = s.cpc := rfl
@[simp] theorem consume_din (n : Nat) (s : State) : (consume n s).din = s.din := rfl
@[simp] theorem consume_dip (n : Nat) (s : State) : (consume n s).dip = s.dip + n := rfl
@[simp] theorem consume_dout (n : Nat) (s : State) : (consume n s).dout = s.dout := rfl
@[simp] theorem consume_params (n : Nat) (s : State) : (consume n s).params = s.params := rfl

/-! ### `doutWrite` -/

@[simp] theorem doutWrite_kid (b : List Byte) (s : State) : (doutWrite b s).kid = s.kid := rfl
@[simp] theorem doutWrite_key (b : List Byte) (s : State) : (doutWrite b s).key = s.key := rfl
@[simp] theorem doutWrite_iv (b : List Byte) (s : State) : (doutWrite b s).iv = s.iv := rfl
@[simp] theorem doutWrite_chain (b : List Byte) (s : State) : (doutWrite b s).chain = s.chain := rfl
@[simp] theorem doutWrite_phase (b : List Byte) (s : State) : (doutWrite b s).phase = s.phase := rfl
@[simp] theorem doutWrite_fcode (b : List Byte) (s : State) : (doutWrite b s).fcode = s.fcode := rfl
@[simp] theorem doutWrite_keyv (b : List Byte) (s : State) : (doutWrite b s).keyv = s.keyv := rfl
@[simp] theorem doutWrite_usesub (b : List Byte) (s : State) : (doutWrite b s).usesub = s.usesub := rfl
@[simp] theorem doutWrite_iv16 (b : List Byte) (s : State) : (doutWrite b s).iv16 = s.iv16 := rfl
@[simp] theorem doutWrite_scheme (b : List Byte) (s : State) : (doutWrite b s).scheme = s.scheme := rfl
@[simp] theorem doutWrite_crypt (b : List Byte) (s : State) : (doutWrite b s).crypt = s.crypt := rfl
@[simp] theorem doutWrite_skip (b : List Byte) (s : State) : (doutWrite b s).skip = s.skip := rfl
@[simp] theorem doutWrite_slen (b : List Byte) (s : State) : (doutWrite b s).slen = s.slen := rfl
@[simp] theorem doutWrite_spos (b : List Byte) (s : State) : (doutWrite b s).spos = s.spos := rfl
@[simp] theorem doutWrite_encpos (b : List Byte) (s : State) : (doutWrite b s).encpos = s.encpos := rfl
@[simp] theorem doutWrite_patpos (b : List Byte) (s : State) : (doutWrite b s).patpos = s.patpos := rfl
@[simp] theorem doutWrite_sidx (b : List Byte) (s : State) : (doutWrite b s).sidx = s.sidx := rfl
@[simp] theorem doutWrite_cmd (b : List Byte) (s : State) : (doutWrite b s).cmd = s.cmd := rfl
@[simp] theorem doutWrite_cpc (b : List Byte) (s : State) : (doutWrite b s).cpc = s.cpc := rfl
@[simp] theorem doutWrite_din (b : List Byte) (s : State) : (doutWrite b s).din = s.din := rfl
@[simp] theorem doutWrite_dip (b : List Byte) (s : State) : (doutWrite b s).dip = s.dip := rfl
@[simp] theorem doutWrite_dout (b : List Byte) (s : State) : (doutWrite b s).dout = s.dout ++ b := rfl
@[simp] theorem doutWrite_params (b : List Byte) (s : State) : (doutWrite b s).params = s.params := rfl

/-! ### `advance` -/

@[simp] theorem advance_kid (n : Nat) (s : State) : (advance n s).kid = s.kid := rfl
@[simp] theorem advance_key (n : Nat) (s : State) : (advance n s).key = s.key := rfl
@[simp] theorem advance_iv (n : Nat) (s : State) : (advance n s).iv = s.iv := rfl
@[simp] theorem advance_chain (n : Nat) (s : State) : (advance n s).chain = s.chain := rfl
@[simp] theorem advance_phase (n : Nat) (s : State) : (advance n s).phase = s.phase := rfl
@[simp] theorem advance_fcode (n : Nat) (s : State) : (advance n s).fcode = s.fcode := rfl
@[simp] theorem advance_keyv (n : Nat) (s : State) : (advance n s).keyv = s.keyv := rfl
@[simp] theorem advance_usesub (n : Nat) (s : State) : (advance n s).usesub = s.usesub := rfl
@[simp] theorem advance_iv16 (n : Nat) (s : State) : (advance n s).iv16 = s.iv16 := rfl
@[simp] theorem advance_scheme (n : Nat) (s : State) : (advance n s).scheme = s.scheme := rfl
@[simp] theorem advance_crypt (n : Nat) (s : State) : (advance n s).crypt = s.crypt := rfl
@[simp] theorem advance_skip (n : Nat) (s : State) : (advance n s).skip = s.skip := rfl
@[simp] theorem advance_slen (n : Nat) (s : State) : (advance n s).slen = s.slen := rfl
@[simp] theorem advance_spos (n : Nat) (s : State) : (advance n s).spos = s.spos := rfl
@[simp] theorem advance_encpos (n : Nat) (s : State) : (advance n s).encpos = s.encpos := rfl
@[simp] theorem advance_patpos (n : Nat) (s : State) : (advance n s).patpos = s.patpos := rfl
@[simp] theorem advance_sidx (n : Nat) (s : State) : (advance n s).sidx = s.sidx := rfl
@[simp] theorem advance_cmd (n : Nat) (s : State) : (advance n s).cmd = s.cmd := rfl
@[simp] theorem advance_cpc (n : Nat) (s : State) : (advance n s).cpc = s.cpc + n := rfl
@[simp] theorem advance_din (n : Nat) (s : State) : (advance n s).din = s.din := rfl
@[simp] theorem advance_dip (n : Nat) (s : State) : (advance n s).dip = s.dip := rfl
@[simp] theorem advance_dout (n : Nat) (s : State) : (advance n s).dout = s.dout := rfl
@[simp] theorem advance_params (n : Nat) (s : State) : (advance n s).params = s.params := rfl

/-! ### `loadKey` -/

@[simp] theorem loadKey_kid (k : Block) (s : State) : (loadKey k s).kid = s.kid := rfl
@[simp] theorem loadKey_key (k : Block) (s : State) : (loadKey k s).key = k := rfl
@[simp] theorem loadKey_iv (k : Block) (s : State) : (loadKey k s).iv = s.iv := rfl
@[simp] theorem loadKey_chain (k : Block) (s : State) : (loadKey k s).chain = s.chain := rfl
@[simp] theorem loadKey_phase (k : Block) (s : State) : (loadKey k s).phase = s.phase := rfl
@[simp] theorem loadKey_fcode (k : Block) (s : State) : (loadKey k s).fcode = s.fcode := rfl
@[simp] theorem loadKey_keyv (k : Block) (s : State) : (loadKey k s).keyv = true := rfl
@[simp] theorem loadKey_usesub (k : Block) (s : State) : (loadKey k s).usesub = s.usesub := rfl
@[simp] theorem loadKey_iv16 (k : Block) (s : State) : (loadKey k s).iv16 = s.iv16 := rfl
@[simp] theorem loadKey_scheme (k : Block) (s : State) : (loadKey k s).scheme = s.scheme := rfl
@[simp] theorem loadKey_crypt (k : Block) (s : State) : (loadKey k s).crypt = s.crypt := rfl
@[simp] theorem loadKey_skip (k : Block) (s : State) : (loadKey k s).skip = s.skip := rfl
@[simp] theorem loadKey_slen (k : Block) (s : State) : (loadKey k s).slen = s.slen := rfl
@[simp] theorem loadKey_spos (k : Block) (s : State) : (loadKey k s).spos = s.spos := rfl
@[simp] theorem loadKey_encpos (k : Block) (s : State) : (loadKey k s).encpos = s.encpos := rfl
@[simp] theorem loadKey_patpos (k : Block) (s : State) : (loadKey k s).patpos = s.patpos := rfl
@[simp] theorem loadKey_sidx (k : Block) (s : State) : (loadKey k s).sidx = s.sidx := rfl
@[simp] theorem loadKey_cmd (k : Block) (s : State) : (loadKey k s).cmd = s.cmd := rfl
@[simp] theorem loadKey_cpc (k : Block) (s : State) : (loadKey k s).cpc = s.cpc := rfl
@[simp] theorem loadKey_din (k : Block) (s : State) : (loadKey k s).din = s.din := rfl
@[simp] theorem loadKey_dip (k : Block) (s : State) : (loadKey k s).dip = s.dip := rfl
@[simp] theorem loadKey_dout (k : Block) (s : State) : (loadKey k s).dout = s.dout := rfl
@[simp] theorem loadKey_params (k : Block) (s : State) : (loadKey k s).params = s.params := rfl

/-! ### `clearKey` -/

@[simp] theorem clearKey_kid (s : State) : (clearKey s).kid = s.kid := rfl
@[simp] theorem clearKey_key (s : State) : (clearKey s).key = Block.zero := rfl
@[simp] theorem clearKey_iv (s : State) : (clearKey s).iv = s.iv := rfl
@[simp] theorem clearKey_chain (s : State) : (clearKey s).chain = s.chain := rfl
@[simp] theorem clearKey_phase (s : State) : (clearKey s).phase = s.phase := rfl
@[simp] theorem clearKey_fcode (s : State) : (clearKey s).fcode = s.fcode := rfl
@[simp] theorem clearKey_keyv (s : State) : (clearKey s).keyv = false := rfl
@[simp] theorem clearKey_usesub (s : State) : (clearKey s).usesub = s.usesub := rfl
@[simp] theorem clearKey_iv16 (s : State) : (clearKey s).iv16 = s.iv16 := rfl
@[simp] theorem clearKey_scheme (s : State) : (clearKey s).scheme = s.scheme := rfl
@[simp] theorem clearKey_crypt (s : State) : (clearKey s).crypt = s.crypt := rfl
@[simp] theorem clearKey_skip (s : State) : (clearKey s).skip = s.skip := rfl
@[simp] theorem clearKey_slen (s : State) : (clearKey s).slen = s.slen := rfl
@[simp] theorem clearKey_spos (s : State) : (clearKey s).spos = s.spos := rfl
@[simp] theorem clearKey_encpos (s : State) : (clearKey s).encpos = s.encpos := rfl
@[simp] theorem clearKey_patpos (s : State) : (clearKey s).patpos = s.patpos := rfl
@[simp] theorem clearKey_sidx (s : State) : (clearKey s).sidx = s.sidx := rfl
@[simp] theorem clearKey_cmd (s : State) : (clearKey s).cmd = s.cmd := rfl
@[simp] theorem clearKey_cpc (s : State) : (clearKey s).cpc = s.cpc := rfl
@[simp] theorem clearKey_din (s : State) : (clearKey s).din = s.din := rfl
@[simp] theorem clearKey_dip (s : State) : (clearKey s).dip = s.dip := rfl
@[simp] theorem clearKey_dout (s : State) : (clearKey s).dout = s.dout := rfl
@[simp] theorem clearKey_params (s : State) : (clearKey s).params = s.params := rfl

/-! ### `setSampleFlags` -/

@[simp] theorem setSampleFlags_kid (a b : Bool) (s : State) : (setSampleFlags a b s).kid = s.kid := rfl
@[simp] theorem setSampleFlags_key (a b : Bool) (s : State) : (setSampleFlags a b s).key = s.key := rfl
@[simp] theorem setSampleFlags_iv (a b : Bool) (s : State) : (setSampleFlags a b s).iv = s.iv := rfl
@[simp] theorem setSampleFlags_chain (a b : Bool) (s : State) : (setSampleFlags a b s).chain = s.chain := rfl
@[simp] theorem setSampleFlags_phase (a b : Bool) (s : State) : (setSampleFlags a b s).phase = s.phase := rfl
@[simp] theorem setSampleFlags_fcode (a b : Bool) (s : State) : (setSampleFlags a b s).fcode = s.fcode := rfl
@[simp] theorem setSampleFlags_keyv (a b : Bool) (s : State) : (setSampleFlags a b s).keyv = s.keyv := rfl
@[simp] theorem setSampleFlags_usesub (a b : Bool) (s : State) : (setSampleFlags a b s).usesub = b := rfl
@[simp] theorem setSampleFlags_iv16 (a b : Bool) (s : State) : (setSampleFlags a b s).iv16 = a := rfl
@[simp] theorem setSampleFlags_scheme (a b : Bool) (s : State) : (setSampleFlags a b s).scheme = s.scheme := rfl
@[simp] theorem setSampleFlags_crypt (a b : Bool) (s : State) : (setSampleFlags a b s).crypt = s.crypt := rfl
@[simp] theorem setSampleFlags_skip (a b : Bool) (s : State) : (setSampleFlags a b s).skip = s.skip := rfl
@[simp] theorem setSampleFlags_slen (a b : Bool) (s : State) : (setSampleFlags a b s).slen = s.slen := rfl
@[simp] theorem setSampleFlags_spos (a b : Bool) (s : State) : (setSampleFlags a b s).spos = s.spos := rfl
@[simp] theorem setSampleFlags_encpos (a b : Bool) (s : State) : (setSampleFlags a b s).encpos = s.encpos := rfl
@[simp] theorem setSampleFlags_patpos (a b : Bool) (s : State) : (setSampleFlags a b s).patpos = s.patpos := rfl
@[simp] theorem setSampleFlags_sidx (a b : Bool) (s : State) : (setSampleFlags a b s).sidx = s.sidx := rfl
@[simp] theorem setSampleFlags_cmd (a b : Bool) (s : State) : (setSampleFlags a b s).cmd = s.cmd := rfl
@[simp] theorem setSampleFlags_cpc (a b : Bool) (s : State) : (setSampleFlags a b s).cpc = s.cpc := rfl
@[simp] theorem setSampleFlags_din (a b : Bool) (s : State) : (setSampleFlags a b s).din = s.din := rfl
@[simp] theorem setSampleFlags_dip (a b : Bool) (s : State) : (setSampleFlags a b s).dip = s.dip := rfl
@[simp] theorem setSampleFlags_dout (a b : Bool) (s : State) : (setSampleFlags a b s).dout = s.dout := rfl
@[simp] theorem setSampleFlags_params (a b : Bool) (s : State) : (setSampleFlags a b s).params = s.params := rfl

/-! ### `configure` -/

@[simp] theorem configure_kid (n : SchemeName) (c k : Byte) (s : State) : (configure n c k s).kid = s.kid := rfl
@[simp] theorem configure_key (n : SchemeName) (c k : Byte) (s : State) : (configure n c k s).key = s.key := rfl
@[simp] theorem configure_iv (n : SchemeName) (c k : Byte) (s : State) : (configure n c k s).iv = s.iv := rfl
@[simp] theorem configure_chain (n : SchemeName) (c k : Byte) (s : State) : (configure n c k s).chain = s.chain := rfl
@[simp] theorem configure_phase (n : SchemeName) (c k : Byte) (s : State) : (configure n c k s).phase = s.phase := rfl
@[simp] theorem configure_fcode (n : SchemeName) (c k : Byte) (s : State) : (configure n c k s).fcode = s.fcode := rfl
@[simp] theorem configure_keyv (n : SchemeName) (c k : Byte) (s : State) : (configure n c k s).keyv = s.keyv := rfl
@[simp] theorem configure_usesub (n : SchemeName) (c k : Byte) (s : State) : (configure n c k s).usesub = s.usesub := rfl
@[simp] theorem configure_iv16 (n : SchemeName) (c k : Byte) (s : State) : (configure n c k s).iv16 = s.iv16 := rfl
@[simp] theorem configure_scheme (n : SchemeName) (c k : Byte) (s : State) : (configure n c k s).scheme = schemeOf n := rfl
@[simp] theorem configure_crypt (n : SchemeName) (c k : Byte) (s : State) : (configure n c k s).crypt = storedCount n c := rfl
@[simp] theorem configure_skip (n : SchemeName) (c k : Byte) (s : State) : (configure n c k s).skip = storedCount n k := rfl
@[simp] theorem configure_slen (n : SchemeName) (c k : Byte) (s : State) : (configure n c k s).slen = s.slen := rfl
@[simp] theorem configure_spos (n : SchemeName) (c k : Byte) (s : State) : (configure n c k s).spos = s.spos := rfl
@[simp] theorem configure_encpos (n : SchemeName) (c k : Byte) (s : State) : (configure n c k s).encpos = s.encpos := rfl
@[simp] theorem configure_patpos (n : SchemeName) (c k : Byte) (s : State) : (configure n c k s).patpos = s.patpos := rfl
@[simp] theorem configure_sidx (n : SchemeName) (c k : Byte) (s : State) : (configure n c k s).sidx = s.sidx := rfl
@[simp] theorem configure_cmd (n : SchemeName) (c k : Byte) (s : State) : (configure n c k s).cmd = s.cmd := rfl
@[simp] theorem configure_cpc (n : SchemeName) (c k : Byte) (s : State) : (configure n c k s).cpc = s.cpc := rfl
@[simp] theorem configure_din (n : SchemeName) (c k : Byte) (s : State) : (configure n c k s).din = s.din := rfl
@[simp] theorem configure_dip (n : SchemeName) (c k : Byte) (s : State) : (configure n c k s).dip = s.dip := rfl
@[simp] theorem configure_dout (n : SchemeName) (c k : Byte) (s : State) : (configure n c k s).dout = s.dout := rfl
@[simp] theorem configure_params (n : SchemeName) (c k : Byte) (s : State) : (configure n c k s).params = s.params := rfl

/-! ### `appendCmd` -/

@[simp] theorem appendCmd_kid (w : List Word) (s : State) : (appendCmd w s).kid = s.kid := rfl
@[simp] theorem appendCmd_key (w : List Word) (s : State) : (appendCmd w s).key = s.key := rfl
@[simp] theorem appendCmd_iv (w : List Word) (s : State) : (appendCmd w s).iv = s.iv := rfl
@[simp] theorem appendCmd_chain (w : List Word) (s : State) : (appendCmd w s).chain = s.chain := rfl
@[simp] theorem appendCmd_phase (w : List Word) (s : State) : (appendCmd w s).phase = s.phase := rfl
@[simp] theorem appendCmd_fcode (w : List Word) (s : State) : (appendCmd w s).fcode = s.fcode := rfl
@[simp] theorem appendCmd_keyv (w : List Word) (s : State) : (appendCmd w s).keyv = s.keyv := rfl
@[simp] theorem appendCmd_usesub (w : List Word) (s : State) : (appendCmd w s).usesub = s.usesub := rfl
@[simp] theorem appendCmd_iv16 (w : List Word) (s : State) : (appendCmd w s).iv16 = s.iv16 := rfl
@[simp] theorem appendCmd_scheme (w : List Word) (s : State) : (appendCmd w s).scheme = s.scheme := rfl
@[simp] theorem appendCmd_crypt (w : List Word) (s : State) : (appendCmd w s).crypt = s.crypt := rfl
@[simp] theorem appendCmd_skip (w : List Word) (s : State) : (appendCmd w s).skip = s.skip := rfl
@[simp] theorem appendCmd_slen (w : List Word) (s : State) : (appendCmd w s).slen = s.slen := rfl
@[simp] theorem appendCmd_spos (w : List Word) (s : State) : (appendCmd w s).spos = s.spos := rfl
@[simp] theorem appendCmd_encpos (w : List Word) (s : State) : (appendCmd w s).encpos = s.encpos := rfl
@[simp] theorem appendCmd_patpos (w : List Word) (s : State) : (appendCmd w s).patpos = s.patpos := rfl
@[simp] theorem appendCmd_sidx (w : List Word) (s : State) : (appendCmd w s).sidx = s.sidx := rfl
@[simp] theorem appendCmd_cmd (w : List Word) (s : State) : (appendCmd w s).cmd = s.cmd ++ w := rfl
@[simp] theorem appendCmd_cpc (w : List Word) (s : State) : (appendCmd w s).cpc = s.cpc := rfl
@[simp] theorem appendCmd_din (w : List Word) (s : State) : (appendCmd w s).din = s.din := rfl
@[simp] theorem appendCmd_dip (w : List Word) (s : State) : (appendCmd w s).dip = s.dip := rfl
@[simp] theorem appendCmd_dout (w : List Word) (s : State) : (appendCmd w s).dout = s.dout := rfl
@[simp] theorem appendCmd_params (w : List Word) (s : State) : (appendCmd w s).params = s.params := rfl

/-! ### `appendDin` -/

@[simp] theorem appendDin_kid (b : List Byte) (s : State) : (appendDin b s).kid = s.kid := rfl
@[simp] theorem appendDin_key (b : List Byte) (s : State) : (appendDin b s).key = s.key := rfl
@[simp] theorem appendDin_iv (b : List Byte) (s : State) : (appendDin b s).iv = s.iv := rfl
@[simp] theorem appendDin_chain (b : List Byte) (s : State) : (appendDin b s).chain = s.chain := rfl
@[simp] theorem appendDin_phase (b : List Byte) (s : State) : (appendDin b s).phase = s.phase := rfl
@[simp] theorem appendDin_fcode (b : List Byte) (s : State) : (appendDin b s).fcode = s.fcode := rfl
@[simp] theorem appendDin_keyv (b : List Byte) (s : State) : (appendDin b s).keyv = s.keyv := rfl
@[simp] theorem appendDin_usesub (b : List Byte) (s : State) : (appendDin b s).usesub = s.usesub := rfl
@[simp] theorem appendDin_iv16 (b : List Byte) (s : State) : (appendDin b s).iv16 = s.iv16 := rfl
@[simp] theorem appendDin_scheme (b : List Byte) (s : State) : (appendDin b s).scheme = s.scheme := rfl
@[simp] theorem appendDin_crypt (b : List Byte) (s : State) : (appendDin b s).crypt = s.crypt := rfl
@[simp] theorem appendDin_skip (b : List Byte) (s : State) : (appendDin b s).skip = s.skip := rfl
@[simp] theorem appendDin_slen (b : List Byte) (s : State) : (appendDin b s).slen = s.slen := rfl
@[simp] theorem appendDin_spos (b : List Byte) (s : State) : (appendDin b s).spos = s.spos := rfl
@[simp] theorem appendDin_encpos (b : List Byte) (s : State) : (appendDin b s).encpos = s.encpos := rfl
@[simp] theorem appendDin_patpos (b : List Byte) (s : State) : (appendDin b s).patpos = s.patpos := rfl
@[simp] theorem appendDin_sidx (b : List Byte) (s : State) : (appendDin b s).sidx = s.sidx := rfl
@[simp] theorem appendDin_cmd (b : List Byte) (s : State) : (appendDin b s).cmd = s.cmd := rfl
@[simp] theorem appendDin_cpc (b : List Byte) (s : State) : (appendDin b s).cpc = s.cpc := rfl
@[simp] theorem appendDin_din (b : List Byte) (s : State) : (appendDin b s).din = s.din ++ b := rfl
@[simp] theorem appendDin_dip (b : List Byte) (s : State) : (appendDin b s).dip = s.dip := rfl
@[simp] theorem appendDin_dout (b : List Byte) (s : State) : (appendDin b s).dout = s.dout := rfl
@[simp] theorem appendDin_params (b : List Byte) (s : State) : (appendDin b s).params = s.params := rfl

end Sys2Proof.Machine
end

