-- ==== Sys2Proof/Laws/Ops.lean ====
section
/-! SUPPORT. What the shared operations can do, once: the outcome of the checks (`judge`), the next state
of an outcome (`settle`), the meaning of a command and the step as an outcome and an effect, and the
inversion of a step, which later proofs cite instead of unfolding it. -/

namespace Sys2Proof.Machine

/-! ### Outcomes -/

@[simp] theorem settle_ok (s e : State) : settle .ok s e = e := rfl
@[simp] theorem settle_fault (f : FaultKind) (s e : State) : settle (.fault f) s e = raise f s := rfl
@[simp] theorem settle_holdCmd (s e : State) : settle .holdCmd s e = s := rfl
@[simp] theorem settle_holdDin (s e : State) : settle .holdDin s e = s := rfl
@[simp] theorem settle_halted (s e : State) : settle .halted s e = s := rfl

@[simp] theorem conclude_next (o : StepOutcome) (s e t : State) :
    conclude o s e = .next t ↔ t = settle o s e := by
  simp only [conclude, Host.Outcome.next.injEq, eq_comm]

theorem isHalted_eq_false (s : State) :
    isHalted s = false ↔ s.phase = .idle ∨ s.phase = .sample := by
  cases h : s.phase <;> simp [isHalted, h]

theorem isHalted_eq_true (s : State) :
    isHalted s = true ↔ s.phase = .done ∨ s.phase = .fault := by
  cases h : s.phase <;> simp [isHalted, h]

@[simp] theorem firstFailing_nil : firstFailing [] = none := rfl
@[simp] theorem firstFailing_cons (c : Check) (cs : List Check) :
    firstFailing (c :: cs) = if c.fails then some c.kind else firstFailing cs := rfl

/-- A command completes exactly when the engine is not halted, the command is legal, no check fails and
its data has arrived. -/
theorem judge_ok (s : State) (legal : Bool) (checks : List Check) (need : Nat) :
    judge s legal checks need = .ok ↔
      isHalted s = false ∧ legal = true ∧ firstFailing checks = none ∧
        (need = 0 ∨ s.dip + need ≤ s.din.length) := by
  unfold judge
  cases isHalted s <;> cases legal <;> cases firstFailing checks <;> simp
  omega

/-- A command faults exactly when the engine is not halted and the command is illegal or a check fails;
the data does not matter. -/
theorem judge_fault (s : State) (legal : Bool) (checks : List Check) (need : Nat) (f : FaultKind) :
    judge s legal checks need = .fault f ↔
      isHalted s = false ∧
        (legal = false ∧ f = .illegalCommand ∨ legal = true ∧ firstFailing checks = some f) := by
  unfold judge
  cases isHalted s <;> cases legal <;> cases firstFailing checks <;> simp
  · exact eq_comm
  · exact eq_comm
  · split <;> simp

theorem judge_holdDin (s : State) (legal : Bool) (checks : List Check) (need : Nat) :
    judge s legal checks need = .holdDin ↔
      isHalted s = false ∧ legal = true ∧ firstFailing checks = none ∧
        need ≠ 0 ∧ s.din.length < s.dip + need := by
  unfold judge
  cases isHalted s <;> cases legal <;> cases firstFailing checks <;> simp

theorem judge_halted (s : State) (legal : Bool) (checks : List Check) (need : Nat) :
    judge s legal checks need = .halted ↔ isHalted s = true := by
  unfold judge
  cases isHalted s <;> cases legal <;> cases firstFailing checks <;> simp
  split <;> simp

theorem judge_ne_holdCmd (s : State) (legal : Bool) (checks : List Check) (need : Nat) :
    judge s legal checks need ≠ .holdCmd := by
  unfold judge
  cases isHalted s <;> cases legal <;> cases firstFailing checks <;> simp
  split <;> simp

/-! ### Meanings and the step -/

theorem stepOutcome_of_ok {s : State} {i : Instr} (h : fetch s = .ok i) :
    stepOutcome s = instrOutcome i s := by
  unfold stepOutcome; rw [h]

theorem stepOutcome_of_error {s : State} {r : Reject} (h : fetch s = .error r) :
    stepOutcome s = rejectOutcome r s := by
  unfold stepOutcome; rw [h]

theorem rejectOutcome_ne_ok (r : Reject) (s : State) : rejectOutcome r s ≠ .ok := by
  unfold rejectOutcome
  cases isHalted s <;> cases r <;> simp

/-- Every meaning is its outcome settled on its effect. -/
theorem exec_eq (i : Instr) (s : State) :
    exec i s = .next (settle (instrOutcome i s) s (instrEffect i s)) := by
  cases i <;> rfl

/-- The effect of the step where it completes. -/
def stepEffect (s : State) : State :=
  match fetch s with
  | .ok i => instrEffect i s
  | .error _ => s

/-- The step is its outcome settled on the effect of the command at CPC. -/
theorem step_eq (s : State) : step s = .next (settle (stepOutcome s) s (stepEffect s)) := by
  unfold step stepOutcome stepEffect
  cases fetch s with
  | ok i => exact exec_eq i s
  | error r => rfl

theorem step_next_iff (s t : State) :
    step s = .next t ↔ t = settle (stepOutcome s) s (stepEffect s) := by
  rw [step_eq]
  simp only [Host.Outcome.next.injEq, eq_comm]

theorem nextState_eq (s : State) : nextState s = settle (stepOutcome s) s (stepEffect s) := by
  unfold nextState
  rw [step_eq]

/-- The state is left as it is. -/
def StepOutcome.waits : StepOutcome → Bool
  | .ok => false
  | .fault _ => false
  | .holdCmd => true
  | .holdDin => true
  | .halted => true

/-- Everything a step can do: wait, take a fault, or complete the command at CPC. -/
theorem step_cases {s t : State} (h : step s = .next t) :
    ((stepOutcome s).waits = true ∧ t = s) ∨
    (∃ f, stepOutcome s = .fault f ∧ t = raise f s) ∨
    (∃ i, fetch s = .ok i ∧ instrOutcome i s = .ok ∧ stepOutcome s = .ok ∧ t = instrEffect i s) := by
  rw [step_next_iff] at h
  cases ho : stepOutcome s with
  | ok =>
    right; right
    cases hf : fetch s with
    | ok i =>
      refine ⟨i, rfl, stepOutcome_of_ok hf ▸ ho, rfl, ?_⟩
      rw [ho] at h
      unfold stepEffect at h
      rw [hf] at h
      exact h
    | error r => exact absurd (stepOutcome_of_error hf ▸ ho) (rejectOutcome_ne_ok r s)
  | fault f => exact Or.inr (Or.inl ⟨f, rfl, by rw [ho] at h; exact h⟩)
  | holdCmd => exact Or.inl ⟨rfl, by rw [ho] at h; exact h⟩
  | holdDin => exact Or.inl ⟨rfl, by rw [ho] at h; exact h⟩
  | halted => exact Or.inl ⟨rfl, by rw [ho] at h; exact h⟩

end Sys2Proof.Machine
end

