-- ==== Sys2Proof/Laws/PerInstr.lean ====
section
/-! SUPPORT. Facts about every command as syntax, one lemma per constructor. -/

namespace Sys2Proof.Laws.EncodedLength

/-- A well-formed command has as many words as R97 counts for it. -/
def Statement (i : Instr) : Prop := i.wf = true → (encode i).length = i.words

theorem nop : Statement .nop := fun _ => rfl

theorem ldkid (kid : Block) : Statement (.ldkid kid) := fun _ => rfl

theorem ldkey (key : Block) : Statement (.ldkey key) := fun _ => rfl

theorem cfg (schm : SchemeName) (crypt skip : Byte) : Statement (.cfg schm crypt skip) := fun _ => rfl

theorem beginSample (iv16 sub : Bool) (slen : Word) (iv : List Byte) :
    Statement (.beginSample iv16 sub slen iv) := by
  intro h
  simp only [Instr.wf, beq_iff_eq] at h
  cases iv16
  · match iv, h with
    | [_, _, _, _, _, _, _, _], _ => rfl
  · match iv, h with
    | [_, _, _, _, _, _, _, _, _, _, _, _, _, _, _, _], _ => rfl

theorem sub (clear : BitVec 16) (enc : Word) : Statement (.sub clear enc) := fun _ => rfl

theorem endSample : Statement .endSample := fun _ => rfl

theorem fin : Statement .fin := fun _ => rfl

end Sys2Proof.Laws.EncodedLength
end

