-- ==== Sys2Proof/Laws/Range.lean ====
section
/-! SUPPORT. What the data operations do: the bytes read, and what `copyClear`, `range` and `openSample`
leave in each field. -/

namespace Sys2Proof.Machine

/-- A read of bytes that have arrived gives exactly that many. -/
theorem dinBytes_length {n : Nat} {s : State} (h : n = 0 ∨ s.dip + n ≤ s.din.length) :
    (dinBytes n s).length = n := by
  simp only [dinBytes, List.length_take, List.length_drop]
  omega

/-! ### `copyClear` (R145) -/

@[simp] theorem copyClear_kid (n : Nat) (s : State) : (copyClear n s).kid = s.kid := rfl
@[simp] theorem copyClear_key (n : Nat) (s : State) : (copyClear n s).key = s.key := rfl
@[simp] theorem copyClear_iv (n : Nat) (s : State) : (copyClear n s).iv = s.iv := rfl
@[simp] theorem copyClear_chain (n : Nat) (s : State) : (copyClear n s).chain = s.chain := rfl
@[simp] theorem copyClear_phase (n : Nat) (s : State) : (copyClear n s).phase = s.phase := rfl
@[simp] theorem copyClear_fcode (n : Nat) (s : State) : (copyClear n s).fcode = s.fcode := rfl
@[simp] theorem copyClear_keyv (n : Nat) (s : State) : (copyClear n s).keyv = s.keyv := rfl
@[simp] theorem copyClear_usesub (n : Nat) (s : State) : (copyClear n s).usesub = s.usesub := rfl
@[simp] theorem copyClear_iv16 (n : Nat) (s : State) : (copyClear n s).iv16 = s.iv16 := rfl
@[simp] theorem copyClear_scheme (n : Nat) (s : State) : (copyClear n s).scheme = s.scheme := rfl
@[simp] theorem copyClear_crypt (n : Nat) (s : State) : (copyClear n s).crypt = s.crypt := rfl
@[simp] theorem copyClear_skip (n : Nat) (s : State) : (copyClear n s).skip = s.skip := rfl
@[simp] theorem copyClear_slen (n : Nat) (s : State) : (copyClear n s).slen = s.slen := rfl
@[simp] theorem copyClear_spos (n : Nat) (s : State) : (copyClear n s).spos = s.spos := rfl
@[simp] theorem copyClear_encpos (n : Nat) (s : State) : (copyClear n s).encpos = s.encpos := rfl
@[simp] theorem copyClear_patpos (n : Nat) (s : State) : (copyClear n s).patpos = s.patpos := rfl
@[simp] theorem copyClear_sidx (n : Nat) (s : State) : (copyClear n s).sidx = s.sidx := rfl
@[simp] theorem copyClear_cmd (n : Nat) (s : State) : (copyClear n s).cmd = s.cmd := rfl
@[simp] theorem copyClear_cpc (n : Nat) (s : State) : (copyClear n s).cpc = s.cpc := rfl
@[simp] theorem copyClear_din (n : Nat) (s : State) : (copyClear n s).din = s.din := rfl
@[simp] theorem copyClear_dip (n : Nat) (s : State) : (copyClear n s).dip = s.dip + n := rfl
@[simp] theorem copyClear_dout (n : Nat) (s : State) : (copyClear n s).dout = s.dout ++ dinBytes n s := rfl
@[simp] theorem copyClear_params (n : Nat) (s : State) : (copyClear n s).params = s.params := rfl

/-! ### `range` (R146): the fields both paths treat alike -/

@[simp] theorem range_kid (n : Nat) (s : State) : (range n s).kid = s.kid := by
  unfold range; split <;> rfl
@[simp] theorem range_key (n : Nat) (s : State) : (range n s).key = s.key := by
  unfold range; split <;> rfl
@[simp] theorem range_iv (n : Nat) (s : State) : (range n s).iv = s.iv := by
  unfold range; split <;> rfl
@[simp] theorem range_phase (n : Nat) (s : State) : (range n s).phase = s.phase := by
  unfold range; split <;> rfl
@[simp] theorem range_fcode (n : Nat) (s : State) : (range n s).fcode = s.fcode := by
  unfold range; split <;> rfl
@[simp] theorem range_keyv (n : Nat) (s : State) : (range n s).keyv = s.keyv := by
  unfold range; split <;> rfl
@[simp] theorem range_usesub (n : Nat) (s : State) : (range n s).usesub = s.usesub := by
  unfold range; split <;> rfl
@[simp] theorem range_iv16 (n : Nat) (s : State) : (range n s).iv16 = s.iv16 := by
  unfold range; split <;> rfl
@[simp] theorem range_scheme (n : Nat) (s : State) : (range n s).scheme = s.scheme := by
  unfold range; split <;> rfl
@[simp] theorem range_crypt (n : Nat) (s : State) : (range n s).crypt = s.crypt := by
  unfold range; split <;> rfl
@[simp] theorem range_skip (n : Nat) (s : State) : (range n s).skip = s.skip := by
  unfold range; split <;> rfl
@[simp] theorem range_slen (n : Nat) (s : State) : (range n s).slen = s.slen := by
  unfold range; split <;> rfl
@[simp] theorem range_spos (n : Nat) (s : State) : (range n s).spos = s.spos := by
  unfold range; split <;> rfl
@[simp] theorem range_encpos (n : Nat) (s : State) : (range n s).encpos = BitVec.ofNat 32 (s.encpos.toNat + n) := by
  unfold range; split <;> rfl
@[simp] theorem range_sidx (n : Nat) (s : State) : (range n s).sidx = s.sidx := by
  unfold range; split <;> rfl
@[simp] theorem range_cmd (n : Nat) (s : State) : (range n s).cmd = s.cmd := by
  unfold range; split <;> rfl
@[simp] theorem range_cpc (n : Nat) (s : State) : (range n s).cpc = s.cpc := by
  unfold range; split <;> rfl
@[simp] theorem range_din (n : Nat) (s : State) : (range n s).din = s.din := by
  unfold range; split <;> rfl
@[simp] theorem range_dip (n : Nat) (s : State) : (range n s).dip = s.dip + n := by
  unfold range; split <;> rfl
@[simp] theorem range_params (n : Nat) (s : State) : (range n s).params = s.params := by
  unfold range; split <;> rfl

/-- A CENC range leaves CHAIN and PATPOS and writes the data xored with the keystream. -/
theorem range_cenc {n : Nat} {s : State} (h : s.scheme = .cenc) :
    range n s = { s with
      dip := s.dip + n, dout := s.dout ++ cencPlaintext n s,
      encpos := BitVec.ofNat 32 (s.encpos.toNat + n) } := by
  unfold range
  split
  · rfl
  · next h' => rw [h] at h'; cases h'

/-- A CBCS range writes the blocks of its walk and leaves the walk's CHAIN and PATPOS. -/
theorem range_cbcs {n : Nat} {s : State} (h : s.scheme = .cbcs) :
    range n s = { s with
      dip := s.dip + n, dout := s.dout ++ bytesOfBlocks (cbcsRangeWalk n s).blocks,
      encpos := BitVec.ofNat 32 (s.encpos.toNat + n),
      chain := (cbcsRangeWalk n s).chain, patpos := (cbcsRangeWalk n s).patpos } := by
  unfold range
  split
  · next h' => rw [h] at h'; cases h'
  · rfl

/-- The bytes a range writes. -/
def rangeBytes (n : Nat) (s : State) : List Byte :=
  match s.scheme with
  | .cenc => cencPlaintext n s
  | .cbcs => bytesOfBlocks (cbcsRangeWalk n s).blocks

/-- CHAIN after a range. -/
def rangeChain (n : Nat) (s : State) : Block :=
  match s.scheme with
  | .cenc => s.chain
  | .cbcs => (cbcsRangeWalk n s).chain

/-- PATPOS after a range. -/
def rangePatpos (n : Nat) (s : State) : BitVec 9 :=
  match s.scheme with
  | .cenc => s.patpos
  | .cbcs => (cbcsRangeWalk n s).patpos

/-- Everything a range does, whatever the scheme. -/
theorem range_eq (n : Nat) (s : State) :
    range n s = { s with
      dip := s.dip + n, dout := s.dout ++ rangeBytes n s,
      encpos := BitVec.ofNat 32 (s.encpos.toNat + n),
      chain := rangeChain n s, patpos := rangePatpos n s } := by
  cases h : s.scheme
  · rw [range_cenc h]; simp [rangeBytes, rangeChain, rangePatpos, h]
  · rw [range_cbcs h]; simp [rangeBytes, rangeChain, rangePatpos, h]

/-! ### `openSample` (R141) -/

@[simp] theorem openSample_kid (a b : Bool) (l : Word) (v : List Byte) (s : State) :
    (openSample a b l v s).kid = s.kid := rfl
@[simp] theorem openSample_key (a b : Bool) (l : Word) (v : List Byte) (s : State) :
    (openSample a b l v s).key = s.key := rfl
@[simp] theorem openSample_iv (a b : Bool) (l : Word) (v : List Byte) (s : State) :
    (openSample a b l v s).iv = padIv v := rfl
@[simp] theorem openSample_chain (a b : Bool) (l : Word) (v : List Byte) (s : State) :
    (openSample a b l v s).chain = padIv v := rfl
@[simp] theorem openSample_phase (a b : Bool) (l : Word) (v : List Byte) (s : State) :
    (openSample a b l v s).phase = .sample := rfl
@[simp] theorem openSample_fcode (a b : Bool) (l : Word) (v : List Byte) (s : State) :
    (openSample a b l v s).fcode = s.fcode := rfl
@[simp] theorem openSample_keyv (a b : Bool) (l : Word) (v : List Byte) (s : State) :
    (openSample a b l v s).keyv = s.keyv := rfl
@[simp] theorem openSample_usesub (a b : Bool) (l : Word) (v : List Byte) (s : State) :
    (openSample a b l v s).usesub = b := rfl
@[simp] theorem openSample_iv16 (a b : Bool) (l : Word) (v : List Byte) (s : State) :
    (openSample a b l v s).iv16 = a := rfl
@[simp] theorem openSample_scheme (a b : Bool) (l : Word) (v : List Byte) (s : State) :
    (openSample a b l v s).scheme = s.scheme := rfl
@[simp] theorem openSample_crypt (a b : Bool) (l : Word) (v : List Byte) (s : State) :
    (openSample a b l v s).crypt = s.crypt := rfl
@[simp] theorem openSample_skip (a b : Bool) (l : Word) (v : List Byte) (s : State) :
    (openSample a b l v s).skip = s.skip := rfl
@[simp] theorem openSample_slen (a b : Bool) (l : Word) (v : List Byte) (s : State) :
    (openSample a b l v s).slen = l := rfl
@[simp] theorem openSample_spos (a b : Bool) (l : Word) (v : List Byte) (s : State) :
    (openSample a b l v s).spos = 0 := rfl
@[simp] theorem openSample_encpos (a b : Bool) (l : Word) (v : List Byte) (s : State) :
    (openSample a b l v s).encpos = 0 := rfl
@[simp] theorem openSample_patpos (a b : Bool) (l : Word) (v : List Byte) (s : State) :
    (openSample a b l v s).patpos = 0 := rfl
@[simp] theorem openSample_sidx (a b : Bool) (l : Word) (v : List Byte) (s : State) :
    (openSample a b l v s).sidx = s.sidx := rfl
@[simp] theorem openSample_cmd (a b : Bool) (l : Word) (v : List Byte) (s : State) :
    (openSample a b l v s).cmd = s.cmd := rfl
@[simp] theorem openSample_cpc (a b : Bool) (l : Word) (v : List Byte) (s : State) :
    (openSample a b l v s).cpc = s.cpc := rfl
@[simp] theorem openSample_din (a b : Bool) (l : Word) (v : List Byte) (s : State) :
    (openSample a b l v s).din = s.din := rfl
@[simp] theorem openSample_dip (a b : Bool) (l : Word) (v : List Byte) (s : State) :
    (openSample a b l v s).dip = s.dip := rfl
@[simp] theorem openSample_dout (a b : Bool) (l : Word) (v : List Byte) (s : State) :
    (openSample a b l v s).dout = s.dout := rfl
@[simp] theorem openSample_params (a b : Bool) (l : Word) (v : List Byte) (s : State) :
    (openSample a b l v s).params = s.params := rfl

/-! ### BEGIN and SUB -/

/-- Everything BEGIN without a subsample list does where it completes. -/
theorem beginEffect_whole (a : Bool) (l : Word) (v : List Byte) (s : State) :
    beginEffect a false l v s = { openSample a false l v s with
      spos := l, encpos := l, cpc := s.cpc + (if a then 6 else 4), dip := s.dip + l.toNat,
      dout := s.dout ++ rangeBytes l.toNat (openSample a false l v s),
      chain := rangeChain l.toNat (openSample a false l v s),
      patpos := rangePatpos l.toNat (openSample a false l v s) } := by
  simp [beginEffect, range_eq, advance, Instr.words]

/-- Everything SUB does where it completes. -/
theorem subEffect_eq (c : BitVec 16) (e : Word) (s : State) :
    subEffect c e s = { s with
      spos := BitVec.ofNat 32 (pairEnd c e s),
      encpos := BitVec.ofNat 32 (s.encpos.toNat + e.toNat),
      cpc := s.cpc + 2, dip := s.dip + c.toNat + e.toNat,
      dout := s.dout ++ dinBytes c.toNat s ++ rangeBytes e.toNat (copyClear c.toNat s),
      chain := rangeChain e.toNat (copyClear c.toNat s),
      patpos := rangePatpos e.toNat (copyClear c.toNat s) } := by
  simp [subEffect, range_eq, advance, Instr.words, copyClear, doutWrite, consume]

/-! ### Blocks -/

@[simp] theorem quad_toList_length (q : Quad) : q.toList.length = 4 := rfl

@[simp] theorem block_toList_length (b : Block) : b.toList.length = 16 := rfl

/-- Sixteen bytes, taken as a block and written out, are the sixteen bytes. -/
@[simp] theorem blockOfBytes_toList (b : Block) (bs : List Byte) :
    blockOfBytes (b.toList ++ bs) = b := by
  cases b; rfl

theorem blocksOf_length (m : Nat) (bs : List Byte) : (blocksOf m bs).length = m := by
  induction m generalizing bs with
  | zero => rfl
  | succ m ih => simp [blocksOf, ih]

theorem bytesOfBlocks_length (bs : List Block) : (bytesOfBlocks bs).length = 16 * bs.length := by
  induction bs with
  | nil => rfl
  | cons b bs ih => simp [bytesOfBlocks, ih]; omega

theorem keystreamBlocks_length (c : CarryBits) (k v : Block) (b m : Nat) :
    (keystreamBlocks c k v b m).length = 16 * m := by
  induction m generalizing b with
  | zero => rfl
  | succ m ih => simp [keystreamBlocks, ih]; omega

theorem keystream_length (c : CarryBits) (k v : Block) (e n : Nat) :
    (keystream c k v e n).length = n := by
  simp only [keystream, List.length_take, List.length_drop, keystreamBlocks_length]
  omega

theorem cencRange_length (c : CarryBits) (k v : Block) (e : Nat) (bs : List Byte) :
    (cencRange c k v e bs).length = bs.length := by
  simp [cencRange, keystream_length]

theorem cbcsPlain_length (k c : Block) (p : BitVec 9) (cs : List Block) :
    (cbcsPlain k c p cs).blocks.length = cs.length := by
  induction cs generalizing c with
  | nil => rfl
  | cons b bs ih => simp [cbcsPlain, Walk.cons, ih]

theorem cbcsPattern_length (k v : Block) (y z : Byte) (c : Block) (p : BitVec 9)
    (cs : List Block) : (cbcsPattern k v y z c p cs).blocks.length = cs.length := by
  induction cs generalizing c p with
  | nil => rfl
  | cons b bs ih => simp only [cbcsPattern]; split <;> simp [Walk.cons, ih]

theorem cbcsWalk_length (q : Params) (k v : Block) (y z : Byte) (c : Block) (p : BitVec 9)
    (cs : List Block) : (cbcsWalk q k v y z c p cs).blocks.length = cs.length := by
  unfold cbcsWalk
  split
  · exact cbcsPlain_length ..
  · exact cbcsPattern_length ..

/-- A range whose data has arrived writes as many bytes as it reads. -/
theorem rangeBytes_length {n : Nat} {s : State} (h : s.scheme = .cenc ∨ n % 16 = 0)
    (hd : n = 0 ∨ s.dip + n ≤ s.din.length) : (rangeBytes n s).length = n := by
  unfold rangeBytes
  cases hs : s.scheme with
  | cenc => simp only [cencPlaintext, cencRange_length, dinBytes_length hd]
  | cbcs =>
    have hn : n % 16 = 0 := by simpa [hs] using h
    simp only [bytesOfBlocks_length, cbcsRangeWalk, cbcsWalk_length, blocksOf_length]
    omega

/-- Blocks of a prefix that holds them all. -/
theorem blocksOf_take (m : Nat) (bs : List Byte) (n : Nat) (h : 16 * m ≤ n) :
    blocksOf m (bs.take n) = blocksOf m bs := by
  have quad_take : ∀ (l : List Byte) (k : Nat), 4 ≤ k → quadOfBytes (l.take k) = quadOfBytes l := by
    intro l k hk
    simp [quadOfBytes, show 0 < k by omega, show 1 < k by omega, show 2 < k by omega,
      show 3 < k by omega]
  induction m generalizing bs n with
  | zero => rfl
  | succ m ih =>
    simp only [blocksOf, blockOfBytes, List.drop_take]
    rw [ih _ _ (by omega), quad_take _ _ (by omega), quad_take _ _ (by omega),
      quad_take _ _ (by omega), quad_take _ _ (by omega)]

/-- A nonzero CRYPT makes the pattern group nonempty (R190). -/
theorem crypt_pos {y : Byte} (h : y ≠ 0) : 0 < y.toNat :=
  Nat.pos_of_ne_zero fun h0 => h (BitVec.eq_of_toNat_eq h0)

/-- PATPOS after a block, as a number: one on, modulo the group (R194). -/
theorem nextPatpos_toNat {y z : Byte} (p : BitVec 9) (h : y ≠ 0) :
    (nextPatpos y z p).toNat = (p.toNat + 1) % (y.toNat + z.toNat) := by
  have hy := crypt_pos h
  have h1 := y.isLt
  have h2 := z.isLt
  have h3 : (p.toNat + 1) % (y.toNat + z.toNat) < y.toNat + z.toNat := Nat.mod_lt _ (by omega)
  simp only [nextPatpos, BitVec.toNat_ofNat]
  exact Nat.mod_eq_of_lt (by omega)

/-- PATPOS after a block lies in its group (R36, R194). -/
theorem nextPatpos_lt {y z : Byte} (p : BitVec 9) (h : y ≠ 0) :
    (nextPatpos y z p).toNat < y.toNat + z.toNat := by
  have hy := crypt_pos h
  rw [nextPatpos_toNat p h]
  exact Nat.mod_lt _ (by omega)

/-- The chaining value after one block more in front: that block where it is decrypted (R194). -/
theorem patternEndChain_cons (chain c : Block) (y : Byte) (g pos : Nat) (cs : List Block) :
    patternEndChain chain y g pos (c :: cs) =
      patternEndChain (if pos % g < y.toNat then c else chain) y g (pos + 1) cs := by
  unfold patternEndChain
  rw [List.zipIdx_cons, List.filter_cons, List.zipIdx_eq_map_add (i := 0 + 1)]
  simp only [List.filter_map, Nat.add_zero, decide_eq_true_eq]
  split
  · simp only [List.map_cons, List.getLastD_cons, Function.comp_def, Nat.add_assoc, Nat.zero_add]
    simp [Nat.add_comm]
    congr 1
  · simp [Function.comp_def, Nat.add_comm, Nat.add_left_comm]

end Sys2Proof.Machine
end

