-- ==== Sys2Proof/Tests/Slice0.lean ====
section
/-! SUPPORT. Small tests, each on values of spec 95_test_vectors.md or of the rule its comment names, and
for every obligation with hypotheses a theorem that meets them on a concrete state. -/

set_option maxRecDepth 20000

namespace Sys2Proof.Tests

open Sys2Proof Sys2Proof.Machine

/-! ### Helpers -/

/-- The bytes of a hexadecimal string. -/
def hex (s : String) : List Byte := (parseBytes s.toList).getD []

/-- Sixteen bytes in hexadecimal. -/
def hexBlock (s : String) : Block := blockOfBytes (hex s)

/-- The key-id of the vectors. -/
def kid0 : Block := blockOfWords 0x00112233 0x44556677 0x8899aabb 0xccddeeff

/-- The key of the vectors. -/
def key0 : Block := blockOfWords 0xffeeddcc 0xbbaa9988 0x77665544 0x33221100

/-- The 8-byte IV of the vectors. -/
def iv8 : List Byte := [0, 1, 2, 3, 4, 5, 6, 7]

/-- The 16-byte IV of the vectors. -/
def iv16 : List Byte := bytesOfWords [0x10111213, 0x14151617, 0x18191a1b, 0x1c1d1e1f]

/-- After reset, LDKID and LDKEY, with words in CMD and bytes in DIN. -/
def keyed (cmd : List Word) (din : List Byte) : State :=
  { State.reset with kid := kid0, key := key0, keyv := true, cmd := cmd, din := din }

/-- `keyed` in the CBCS scheme. -/
def keyedCbcs (crypt skip : Byte) (cmd : List Word) (din : List Byte) : State :=
  { keyed cmd din with scheme := .cbcs, crypt := crypt, skip := skip }

/-- A sample of `slen` bytes with a subsample list, opened from `s` with the stored IV `v`. -/
def opened (v : List Byte) (slen : Word) (s : State) : State :=
  { s with phase := .sample, usesub := true, iv16 := v.length == 16, slen := slen, iv := padIv v,
           chain := padIv v }

/-- The state of a meaning's answer, reset where there is none. -/
def answer (o : Host.Outcome State Fault Refusal) : State :=
  match o with
  | .next s => s
  | .fault _ => State.reset
  | .refused _ => State.reset

/-! ### Well-formedness: the one check refuses -/

theorem test_wf_begin_short_iv : (Instr.beginSample true false 0 iv8).wf = false := by decide

theorem test_wf_begin_long_iv : (Instr.beginSample false true 0 iv16).wf = false := by decide

theorem test_wf_begin_both_lengths :
    (Instr.beginSample false true 0 iv8).wf = true ∧
    (Instr.beginSample true true 0 iv16).wf = true := by decide

/-! ### Decoding of the words listed in 95_test_vectors.md 3.1 -/

theorem test_decode_nop : decode [0x00000000] = .ok .nop := by decide

theorem test_decode_ldkid :
    decode [0x10000000, 0x00112233, 0x44556677, 0x8899aabb, 0xccddeeff] = .ok (.ldkid kid0) := by decide

theorem test_decode_ldkey :
    decode [0x20000000, 0xffeeddcc, 0xbbaa9988, 0x77665544, 0x33221100] = .ok (.ldkey
      ⟨⟨0xff, 0xee, 0xdd, 0xcc⟩, ⟨0xbb, 0xaa, 0x99, 0x88⟩, ⟨0x77, 0x66, 0x55, 0x44⟩,
        ⟨0x33, 0x22, 0x11, 0x00⟩⟩) := by decide

theorem test_decode_cfg :
    decode [0x30000000] = .ok (.cfg .cenc 0 0) ∧ decode [0x31000109] = .ok (.cfg .cbcs 1 9) ∧
    decode [0x32000109] = .ok (.cfg .cens 1 9) ∧ decode [0x33000000] = .ok (.cfg .cbc1 0 0) ∧
    decode [0x3100ffff] = .ok (.cfg .cbcs 255 255) := by decide

theorem test_decode_begin :
    decode [0x40000000, 0x00000014, 0x00010203, 0x04050607] = .ok (.beginSample false false 20 iv8) ∧
    decode [0x40000001, 0x0000003a, 0x00010203, 0x04050607] = .ok (.beginSample false true 58 iv8) ∧
    decode [0x40000002, 0x00000030, 0x10111213, 0x14151617, 0x18191a1b, 0x1c1d1e1f] =
      .ok (.beginSample true false 48 iv16) ∧
    decode [0x40000003, 0x00000037, 0x10111213, 0x14151617, 0x18191a1b, 0x1c1d1e1f] =
      .ok (.beginSample true true 55 iv16) := by decide

theorem test_decode_sub :
    decode [0x50000005, 0x00000014] = .ok (.sub 5 20) ∧
    decode [0x5000ffff, 0xffffffff] = .ok (.sub 65535 4294967295) := by decide

theorem test_decode_end : decode [0x60000000] = .ok .endSample := by decide

theorem test_decode_fin : decode [0x70000000] = .ok .fin := by decide

/-- The header words listed as not decoding, every one. -/
theorem test_decode_illegal :
    [0x80000000, 0x90000000, 0xf0000000, 0xffffffff, 0x00000001, 0x0fffffff, 0x10000001, 0x20000100,
      0x60000001, 0x70000001, 0x34000000, 0x38000000, 0x30010000, 0x30800000, 0x40000004, 0x48000000,
      0x50010000, 0x58000000].all (fun h => match decodeHeader h with
        | .ok _ => false
        | .error _ => true) = true := by decide

/-- Payload words are never decoded as headers (3.1). -/
theorem test_decode_payload_is_data :
    decode [0x20000000, 0x80000000, 0xffffffff, 0x00000001, 0x00000000] =
      .ok (.ldkey ⟨⟨0x80, 0, 0, 0⟩, ⟨0xff, 0xff, 0xff, 0xff⟩, ⟨0, 0, 0, 1⟩, Quad.zero⟩) := by decide

/-- Every encoding of 3.1 the other way. -/
theorem test_encode :
    encode (.ldkid kid0) = [0x10000000, 0x00112233, 0x44556677, 0x8899aabb, 0xccddeeff] ∧
    encode (.cfg .cbcs 1 9) = [0x31000109] ∧
    encode (.beginSample true true 55 iv16) =
      [0x40000003, 0x00000037, 0x10111213, 0x14151617, 0x18191a1b, 0x1c1d1e1f] ∧
    encode (.sub 5 20) = [0x50000005, 0x00000014] := by decide

/-! ### The table word and the fetch -/

theorem test_decodeTableWord :
    decodeTableWord 32 0x31000109 = some (.cfg .cbcs 1 9) ∧
    decodeTableWord 32 0x40000003 =
      some (.beginSample true true 0 [0, 0, 0, 0, 0, 0, 0, 0, 0, 0, 0, 0, 0, 0, 0, 0]) ∧
    decodeTableWord 32 0x80000000 = none := by decide

theorem test_withFetchWord_runs :
    (answer (step (State.reset.withFetchWord 32 0x31000109))).crypt = 1 ∧
    (answer (step (State.reset.withFetchWord 32 0x31000109))).cpc = 1 := by decide

/-! ### NOP, LDKID, LDKEY, CFG (3.2) -/

theorem test_nop_in_sample :
    answer (execNop (opened iv8 4 (keyed [] []))) = { opened iv8 4 (keyed [] []) with cpc := 1 } := by
  decide

/-- V-KC-3: the slot is emptied also by the same key-id. -/
theorem test_ldkid_empties_slot :
    (answer (execLdkid kid0 (keyed [] []))).key = Block.zero ∧
    statusWord (answer (execLdkid kid0 (keyed [] []))) = 0 ∧
    regRead 0x08 (answer (execLdkid kid0 (keyed [] []))) = 0x00112233 := by decide

/-- V-KC-2, V-KC-4: KEYV is set also by the all-zero key, and KEY reads 0. -/
theorem test_ldkey_sets_valid :
    (answer (execLdkey Block.zero State.reset)).keyv = true ∧
    (answer (execLdkey key0 State.reset)).key.toList.getD 0 0 = 0xff ∧
    regRead 0x14 (answer (execLdkey key0 State.reset)) = 0 := by decide

/-- F-9b: LDKEY in SAMPLE. -/
theorem test_ldkey_in_sample_faults :
    statusWord (answer (execLdkey key0 (opened iv8 4 (keyed [] [])))) = 0x0000080f := by decide

/-- V-KC-5. -/
theorem test_cfg_config :
    configWord (answer (execCfg .cbcs 1 9 State.reset)) = 0x01000109 ∧
    configWord (answer (execCfg .cenc 1 9 State.reset)) = 0x00000109 := by decide

/-- V-KC-5, V-KC-6: the aliases zero the counts. -/
theorem test_cfg_alias :
    configWord (answer (execCfg .cens 7 7 (answer (execCfg .cbcs 1 9 State.reset)))) = 0 ∧
    configWord (answer (execCfg .cbc1 1 9 State.reset)) = 0x01000000 := by decide

/-! ### BEGIN, SUB, END, FIN (3.3, 3.4, 3.6) -/

/-- V-CENC-1. -/
theorem test_begin_cenc_output :
    (answer (execBegin false false 20 iv8
        (keyed [] (hex "000102030405060708090a0b0c0d0e0f10111213")))).dout =
      hex "1dec46f40bce2f713ccf0d097c68dc8b9f59aaa4" := by decide

/-- H-3: the alignment fault does not wait for data. -/
theorem test_begin_unaligned :
    statusWord (answer (execBegin true false 20 iv16 (keyedCbcs 0 0 [] []))) = 0x00000707 := by decide

/-- V-CENC-2, the second range: the keystream goes on from byte 20. -/
theorem test_sub_cenc_continues :
    (answer (execSub 3 30 { opened iv8 58 (keyed []
        (hex "191a1b1c1d1e1f202122232425262728292a2b2c2d2e2f30313233343536373839")) with
          spos := 25, encpos := 20 })).dout =
      hex "191a1bab40699f436e05b63e79643c0b85186a8aa88980274b84ae8de12d48e961" := by decide

/-- V-CBCS-5, the first range: CHAIN ends as the ciphertext block, PATPOS as 1. -/
theorem test_sub_cbcs :
    let t := answer (execSub 4 16 (opened iv16 55 (keyedCbcs 1 1 []
        (hex "000102034d7b0b6ef0192e3ea4f201372069eb41"))))
    t.dout = hex "000102030405060708090a0b0c0d0e0f10111213" ∧ t.patpos = 1 ∧ t.spos = 20 ∧
      t.encpos = 16 ∧ t.chain = hexBlock "4d7b0b6ef0192e3ea4f201372069eb41" := by decide

/-- R143: the example's END, and one that falls short (FCODE 5, SPOS 58). -/
theorem test_end :
    (answer (execEnd { opened iv8 58 (keyed [] []) with spos := 58 })).sidx = 1 ∧
    (answer (execEnd { opened iv8 60 (keyed [] []) with spos := 58 })).fcode = 5 := by decide

/-- R37: SIDX wraps. -/
theorem test_end_wraps_sidx :
    (answer (execEnd { opened iv8 0 (keyed [] []) with sidx := 0xFFFFFFFF })).sidx = 0 := by decide

/-- H-5, and R144's example. -/
theorem test_fin :
    statusWord (answer (execFin (keyed [] []))) = 0x00000002 ∧
    (answer (execFin (keyed [] []))).key = Block.zero := by decide

/-- F-11: FIN in SAMPLE keeps the key. -/
theorem test_fin_in_sample :
    statusWord (answer (execFin (opened iv8 4 (keyed [] [])))) = 0x0000080f ∧
    (answer (execFin (opened iv8 4 (keyed [] [])))).key = key0 := by decide

/-! ### The OPEN parameters on both sides -/

/-- V-CENC-3/64 and V-CENC-3/128: CtrBlk(1). -/
theorem test_counter_carry :
    ctrBlk .bits64 (hexBlock "a0a1a2a3a4a5a6a7ffffffffffffffff") 1 =
      hexBlock "a0a1a2a3a4a5a6a70000000000000000" ∧
    ctrBlk .bits128 (hexBlock "a0a1a2a3a4a5a6a7ffffffffffffffff") 1 =
      hexBlock "a0a1a2a3a4a5a6a80000000000000000" := by decide

/-- V-CBCS-5/true and /false, the second range entered with PATPOS = 1: PATPOS after it, and the block
that is copied. -/
theorem test_pattern_range_restart :
    let c0 := hexBlock "1415161718191a1b1c1d1e1f20212223"
    let c1 := hexBlock "2728292a2b2c2d2e2f30313233343536"
    let w := fun r => cbcsWalk ⟨.bits64, r, false⟩ key0 (padIv iv16) 1 1 c1 1 [c0, c1]
    (w true).patpos = 0 ∧ (w true).blocks.getD 1 c0 = c1 ∧ (w true).chain = c0 ∧
      (w false).patpos = 1 ∧ (w false).blocks.getD 0 c1 = c0 ∧ (w false).chain = c1 := by decide

/-- V-CBCS-6/false and /true, the second range. -/
theorem test_cbc_range_restart :
    let w := fun r => cbcsWalk ⟨.bits64, true, r⟩ key0 (padIv iv16) 0 0
      (hexBlock "da4688a10d7abd6c11892287ad196d7d") 0 [hexBlock "87ad196d7d5f3faa0d1b6cf705a8b0fe"]
    (w false).blocks ≠ (w true).blocks ∧
      (w true).chain = hexBlock "87ad196d7d5f3faa0d1b6cf705a8b0fe" := by decide

/-! ### Faults, holds, REG, reset, assembler -/

/-- F-6, H-7: an illegal header faults at once, a legal one alone holds. -/
theorem test_illegal_header_does_not_wait :
    stepOutcome { State.reset with cmd := [0x40000004] } = .fault .illegalCommand ∧
    stepOutcome { State.reset with cmd := [0x40000000] } = .holdCmd := by decide

/-- H-2: BEGIN 4 with three bytes in DIN. -/
theorem test_hold_din :
    stepOutcome (keyed [0x40000000, 4, 0x00010203, 0x04050607] [0, 1, 2]) = .holdDin := by decide

/-- H-6. -/
theorem test_reset_holds : stepOutcome State.reset = .holdCmd := by decide

/-- 3.8: the end state of F-1. -/
theorem test_reg_port :
    let s := { opened iv16 40 (keyedCbcs 1 9 [] []) with
      phase := .fault, fcode := 7, spos := 20, encpos := 16, patpos := 1,
      chain := hexBlock "0405060708090a0b0c0d0e0f10111213" }
    regRead 0x00 s = 0x0000071f ∧ regRead 0x01 s = 0x01000109 ∧ regRead 0x02 s = 0x28 ∧
      regRead 0x05 s = 1 ∧ regRead 0x0b s = 0xccddeeff ∧ regRead 0x0c s = 0x10111213 ∧
      regRead 0x13 s = 0x10111213 ∧ regRead 0x17 s = 0 ∧ errorValue s = ⟨7, 0, 20, kid0⟩ := by decide

/-- R101, R102: lines of 3.1. -/
theorem test_assembler :
    assembleText "CFG cbcs, 1, 9 ; a comment\nSAMPLE 20, 0001020304050607".toList =
      some [0x31000109, 0x40000000, 0x00000014, 0x00010203, 0x04050607, 0x60000000] := by decide

/-- R101: what the assembler refuses. -/
theorem test_assembler_refuses :
    assembleLine "LDKID 00112233445566778899aabbccddeeff0".toList = none ∧
    assembleLine "BEGIN 20, 000102".toList = none ∧ assembleLine "CFG cbcs, 256, 0".toList = none ∧
    assembleLine "SUB 65536, 0".toList = none ∧
    assembleLine "SUB 0, 4294967296".toList = none := by decide

/-! ### Witnesses: each obligation's hypotheses met together, each clause at boundary values -/

/-- DecodeOfEncode, and the two lengths of a stored IV (the families of EncodedLength). -/
theorem witness_wellFormed :
    (Instr.beginSample false true 0xFFFFFFFF iv8).wf = true ∧
    (Instr.beginSample true false 0 iv16).wf = true ∧ (Instr.sub 65535 0xFFFFFFFF).wf = true := by decide

/-- EncodeOfDecode: the shortest words that decode, and words with more behind them. -/
theorem witness_decodes :
    decode [0x40000001, 0xFFFFFFFF, 0x00010203, 0x04050607] = .ok (.beginSample false true 0xFFFFFFFF iv8) ∧
    decode [0x00000000, 0x80000000] = .ok .nop := by decide

/-- HeaderDecodeAgreesWithOpcodeMap: headers that decode, and the row each selects. -/
theorem witness_headers :
    decodeHeader 0x3300FFFF = .ok (.cfg .cbc1 255 255) ∧
    decodeHeader 0x40000003 = .ok (.beginSample true true) ∧
    (opcodeMap.filter (·.selects 0x3300FFFF)).map (·.mnemonic) = ["CFG"] := by decide

/-- PayloadPackingIsBigEndian: two words, the last index. -/
theorem witness_packing :
    iv8.length % 4 = 0 ∧ 1 < iv8.length / 4 ∧ wordsOfBytes iv8 = [0x00010203, 0x04050607] := by decide

/-- AssembledCommandsAreWellFormed. -/
theorem witness_assembled :
    assembleLine "SAMPLE 20, 0001020304050607".toList =
      some [.beginSample false false 20 iv8, .endSample] := by decide

/-- StepRunsDecodedCommand. -/
theorem witness_stepRuns :
    let s := { keyed [0x00000000, 0x50000005, 0x00000014] [] with cpc := 1 }
    decode (s.cmd.drop s.cpc) = .ok (.sub 5 20) := by decide

/-- HaltedEngineStandsStill: both phases. -/
theorem witness_halted :
    ({ State.reset with phase := .done } : State).phase = .done ∧
    ({ State.reset with phase := .fault, fcode := 8 } : State).phase = .fault := by decide

/-- UnlistedHeaderRaisesIllegalCommand: both phases; a reserved opcode and a reserved bit. -/
theorem witness_unlisted :
    (keyed [0x80000000] []).phase = .idle ∧ (opened iv8 4 (keyed [0x50010000, 0] [])).phase = .sample ∧
    (keyed [0x80000000] []).cmd.drop 0 = [0x80000000] ∧
    (∀ r ∈ opcodeMap, (0x80000000 : Word) &&& r.mask ≠ r.pattern) ∧
    (∀ r ∈ opcodeMap, (0x50010000 : Word) &&& r.mask ≠ r.pattern) := by decide

/-- MissingWordsHold: no word, and the last payload word missing. -/
theorem witness_missing :
    State.reset.phase = .idle ∧ State.reset.cmd.drop State.reset.cpc = [] ∧
    decodeHeader 0x40000002 = .ok (.beginSample true false) ∧
    [4, 0, 0, 0].length < npay (.beginSample true false) ∧
    ¬ [4, 0, 0, 0, 0].length < npay (.beginSample true false) := by decide

/-- FaultEntryWritesCodeAndPhaseOnly: each of the four faults. -/
theorem witness_faults :
    stepOutcome { opened iv8 4 (keyed [0x50000005, 0] []) with cpc := 0 } = .fault .malformedAuxInfo ∧
    stepOutcome { State.reset with cmd := [0x40000000, 0, 0, 0] } = .fault .missingKey ∧
    stepOutcome (opened iv16 20 (keyedCbcs 0 0 [0x50000000, 20] [])) = .fault .unalignedCipherBlock ∧
    stepOutcome { State.reset with cmd := [0x60000000] } = .fault .illegalCommand := by decide

/-- FaultsDoNotWaitForData: a fault with empty DIN, and the same with the data there. -/
theorem witness_faultBeforeData :
    stepOutcome (opened iv16 20 (keyedCbcs 0 0 [0x50000000, 20] [])) = .fault .unalignedCipherBlock ∧
    stepOutcome (opened iv16 20 (keyedCbcs 0 0 [0x50000000, 20] (List.replicate 20 0))) =
      .fault .unalignedCipherBlock := by decide

/-- DataHoldOnlyWhileBytesAreMissing: BEGIN and SUB, one byte short. -/
theorem witness_dataHold :
    stepOutcome (keyed [0x40000000, 4, 0x00010203, 0x04050607] [0, 1, 2]) = .holdDin ∧
    stepOutcome (opened iv8 4 (keyed [0x50000001, 3] [0, 1, 2])) = .holdDin := by decide

/-- PhaseLegality: a command illegal in its phase. -/
theorem witness_illegal :
    instrOutcome .endSample State.reset = .fault .illegalCommand ∧
    instrOutcome (.sub 0 0) { opened iv8 0 (keyed [] []) with usesub := false } =
      .fault .illegalCommand := by decide

/-- BeginTrapsAndWaits: the three clauses, the third one byte short. -/
theorem witness_beginTraps :
    (State.reset.phase = .idle ∧ State.reset.keyv = false) ∧
    ((keyedCbcs 1 9 [] []).keyv = true ∧ (keyedCbcs 1 9 [] []).scheme = .cbcs ∧
      (17 : Word).toNat % 16 ≠ 0) ∧
    ((keyed [] [7]).keyv = true ∧ (keyed [] [7]).scheme = .cenc ∧ 0 < (2 : Word).toNat ∧
      (keyed [] [7]).din.length < (keyed [] [7]).dip + (2 : Word).toNat) := by decide

/-- SubTrapsAndWaits: one byte too many; exactly the sample and unaligned; aligned and one byte short. -/
theorem witness_subTraps :
    let s := opened iv16 20 (keyedCbcs 0 0 [] [])
    s.phase = .sample ∧ s.usesub = true ∧
    s.slen.toNat < s.spos.toNat + (1 : BitVec 16).toNat + (20 : Word).toNat ∧
    (s.spos.toNat + (3 : BitVec 16).toNat + (17 : Word).toNat ≤ s.slen.toNat ∧ s.scheme = .cbcs ∧
      (17 : Word).toNat % 16 ≠ 0) ∧
    (s.spos.toNat + (4 : BitVec 16).toNat + (16 : Word).toNat ≤ s.slen.toNat ∧
      (16 : Word).toNat % 16 = 0 ∧ s.din.length < s.dip + (4 + 16)) := by decide

/-- EndOfShortSampleFaults and EndClosesCompleteSample: one byte short, and complete. -/
theorem witness_end :
    let s := { opened iv8 4 (keyed [] []) with spos := 3 }
    let t := { opened iv8 4 (keyed [] []) with spos := 4, sidx := 0xFFFFFFFF }
    s.phase = .sample ∧ s.spos ≠ s.slen ∧ t.phase = .sample ∧ t.spos = t.slen := by decide

/-- NopOnlyAdvances, LdkidLoadsKeyIdAndEmptiesSlot, LdkeyLoadsKey, CfgStoresSchemeAndCounts, FinEndsRun,
BeginWithListOpensSample: IDLE with a key; NOP also in SAMPLE. -/
theorem witness_idle :
    (keyed [] []).phase = .idle ∧ (keyed [] []).keyv = true ∧
    (opened iv8 0 (keyed [] [])).phase = .sample := by decide

/-- BeginWholeCencSample: all the data there, none left. -/
theorem witness_beginCenc :
    let s := keyed [] [1, 2, 3]
    s.phase = .idle ∧ s.keyv = true ∧ s.scheme = .cenc ∧ s.dip + (3 : Word).toNat ≤ s.din.length := by
  decide

/-- BeginWholeCbcsSample. -/
theorem witness_beginCbcs :
    let s := keyedCbcs 1 9 [] (List.replicate 32 7)
    s.phase = .idle ∧ s.keyv = true ∧ s.scheme = .cbcs ∧ (32 : Word).toNat % 16 = 0 ∧
      s.dip + (32 : Word).toNat ≤ s.din.length := by decide

/-- SubInCenc: the pair that ends the sample, from a position inside a keystream block. -/
theorem witness_subCenc :
    let s := { opened iv8 10 (keyed [] [1, 2, 3, 4, 5]) with spos := 5, encpos := 3 }
    s.phase = .sample ∧ s.usesub = true ∧ s.scheme = .cenc ∧
      s.spos.toNat + (2 : BitVec 16).toNat + (3 : Word).toNat ≤ s.slen.toNat ∧
      s.dip + ((2 : BitVec 16).toNat + (3 : Word).toNat) ≤ s.din.length := by decide

/-- SubInCbcs. -/
theorem witness_subCbcs :
    let s := opened iv16 18 (keyedCbcs 1 9 [] (List.replicate 18 7))
    s.phase = .sample ∧ s.usesub = true ∧ s.scheme = .cbcs ∧
      s.spos.toNat + (2 : BitVec 16).toNat + (16 : Word).toNat ≤ s.slen.toNat ∧
      (16 : Word).toNat % 16 = 0 ∧
      s.dip + ((2 : BitVec 16).toNat + (16 : Word).toNat) ≤ s.din.length := by decide

/-- StoredIvIsPaddedOnTheRight: both lengths, in both schemes. -/
theorem witness_storedIv :
    iv8.length = storedIvLen false ∧ iv16.length = storedIvLen true ∧
    instrOutcome (.beginSample false false 0 iv8) (keyedCbcs 0 0 [] []) = .ok ∧
    instrOutcome (.beginSample true true 9 iv16) (keyed [] []) = .ok := by decide

/-- CounterBlockIsIvPlusIndex: an IV with a zero upper half, and the largest index below 2^64. -/
theorem witness_counterBlock :
    (padIv iv8).c2 = Quad.zero ∧ (padIv iv8).c3 = Quad.zero ∧ 2 ^ 64 - 1 < 2 ^ 64 := by decide

/-- CencRangeIsBytewiseXor, KeystreamContinuesAcrossRanges: the largest position a sample can reach. -/
theorem witness_cencRange :
    let s := { opened iv8 0xFFFFFFFF (keyed [] []) with encpos := 0xFFFFFFFE }
    s.scheme = .cenc ∧ s.encpos.toNat + 1 < 2 ^ 32 := by decide

/-- NoListIsOneWholeRange: a sample that completes, and the unaligned one. -/
theorem witness_noList :
    instrOutcome (.beginSample true false 16 iv16) (keyedCbcs 1 1 [] (List.replicate 16 7)) = .ok ∧
    (∃ t, exec (.beginSample true false 16 iv16) (keyedCbcs 1 1 [] (List.replicate 16 7)) = .next t) ∧
    (15 : Word).toNat % 16 ≠ 0 := ⟨by decide, ⟨_, rfl⟩, by decide⟩

/-- CarryWidthsDifferExactlyOnOverflow: the largest index, on either side of the overflow. -/
theorem witness_carry :
    2 ^ 28 - 1 < 2 ^ 28 ∧
    ¬ beNat ((hexBlock "a0a1a2a3a4a5a6a7fffffffff0000001").toList.drop 8) + (2 ^ 28 - 1) < 2 ^ 64 ∧
    beNat ((hexBlock "a0a1a2a3a4a5a6a7fffffffff0000000").toList.drop 8) + (2 ^ 28 - 1) < 2 ^ 64 := by
  decide

/-- CencIgnoresPatternRegisters. -/
theorem witness_cencIgnores :
    (keyed [] [1, 2, 3]).scheme = .cenc ∧
    (∃ t, exec (.beginSample false false 3 iv8) (keyed [] [1, 2, 3]) = .next t) ∧
    ∀ n x y, Instr.beginSample false false 3 iv8 ≠ .cfg n x y := ⟨by decide, ⟨_, rfl⟩, by simp⟩

/-- PatternRangeDecryptsByPosition: the largest group entered at its last position, and at 0 where the
pattern restarts. -/
theorem witness_pattern :
    (255 : Byte) ≠ 0 ∧ 510 = (255 : Byte).toNat + (255 : Byte).toNat ∧
    509 = (if (Params.mk .bits64 false false).patRangeRestart then 0 else (509 : BitVec 9).toNat) ∧
    0 = (if Params.defaults.patRangeRestart then 0 else (511 : BitVec 9).toNat) ∧ 509 < 510 := by decide

/-- PatternRangeDecryptsByPosition: from the skipped part of a group of 1 + 1, CHAIN ends as found after
one block and as the decrypted block after two. -/
theorem witness_patternEnd :
    patternEndChain key0 1 2 1 [kid0] = key0 ∧ patternEndChain key0 1 2 1 [key0, kid0] = kid0 := by
  decide

/-- KeyExpansionRecurrence, ShiftRowsByIndex, RegisterPortMap: the ends of the index ranges. -/
theorem witness_indices :
    (1 ≤ 9 ∧ 9 < 10) ∧ (3 < 4) ∧ (4 ≤ 43 ∧ 43 < 44) ∧ 0x14 ≤ (0x14 : BitVec 6).toNat ∧
    0x14 ≤ (0x3F : BitVec 6).toNat ∧ (0x17 : BitVec 6).toNat ≤ 0x17 := by decide

/-- KeyReachesOnlyOutputBytes: two keys, two outputs of one length, and a step of each. -/
theorem witness_sameButKey :
    let s := { keyed [0x40000000, 0, 0, 0] [] with dout := [1] }
    let t := { s with key := kid0, dout := [2] }
    SameButKey s t ∧ (∃ s', step s = .next s') ∧ ∃ t', step t = .next t' :=
  ⟨⟨rfl, rfl⟩, ⟨_, rfl⟩, ⟨_, rfl⟩⟩

/-- EveryStepKeepsInvariants: a state inside a sample, and its step. -/
theorem witness_invariants :
    let s := { opened iv8 4 (keyed [0x50000004, 0] [1, 2, 3, 4]) with spos := 0 }
    EngineInv s ∧ step s = .next (nextState s) := ⟨by decide, rfl⟩

/-- PhaseTransitions: a step of each of the four kinds, with its command and outcome, and the reset from
FAULT. -/
theorem witness_transitions :
    (hostMove .reset { State.reset with phase := .fault, fcode := 8 }).map (·.phase) = some .idle ∧
    (nextState (keyed [0x40000001, 0, 0, 0] [])).phase = .sample ∧
    (nextState (opened iv8 0 (keyed [0x60000000] []))).phase = .idle ∧
    (nextState (keyed [0x70000000] [])).phase = .done ∧
    (nextState (keyed [0x60000000] [])).phase = .fault ∧
    step (keyed [0x70000000] []) = .next (nextState (keyed [0x70000000] [])) ∧
    fetch (keyed [0x40000001, 0, 0, 0] []) = .ok (.beginSample false true 0 (List.replicate 8 0)) ∧
    stepOutcome (keyed [0x40000001, 0, 0, 0] []) = .ok ∧
    fetch (opened iv8 0 (keyed [0x60000000] [])) = .ok .endSample ∧
    stepOutcome (opened iv8 0 (keyed [0x60000000] [])) = .ok ∧
    fetch (keyed [0x70000000] []) = .ok .fin ∧ stepOutcome (keyed [0x70000000] []) = .ok ∧
    stepOutcome (keyed [0x60000000] []) = .fault .illegalCommand :=
  ⟨by decide, by decide, by decide, by decide, by decide, rfl, by decide, by decide, by decide,
    by decide, by decide, by decide, by decide⟩

/-- OnlyTheirCommandsWriteRegisters: a step that changes the registers of each clause. -/
theorem witness_writes :
    let kidStep := keyed [0x10000000, 1, 2, 3, 4] []
    let cfgStep := keyed [0x31000109] []
    let beginStep := keyed [0x40000003, 9, 1, 2, 3, 4] []
    let subStep := opened iv8 4 (keyed [0x50000004, 0] [1, 2, 3, 4])
    let endStep := opened iv8 0 (keyed [0x60000000] [])
    (nextState kidStep).kid ≠ kidStep.kid ∧ (nextState kidStep).key ≠ kidStep.key ∧
    (nextState cfgStep).scheme ≠ cfgStep.scheme ∧ (nextState beginStep).iv ≠ beginStep.iv ∧
    (nextState beginStep).chain ≠ beginStep.chain ∧ (nextState subStep).dout ≠ subStep.dout ∧
    (nextState endStep).sidx ≠ endStep.sidx ∧
    (nextState (keyed [0x60000000] [])).fcode ≠ (keyed [0x60000000] []).fcode := by decide

/-- CommandCounterAdvancesByLength: a step that completes, and one that does not. -/
theorem witness_counter :
    fetch (keyed [0x00000000] []) = .ok .nop ∧ stepOutcome (keyed [0x00000000] []) = .ok ∧
    stepOutcome (keyed [0x60000000] []) ≠ .ok ∧
    step (keyed [0x00000000] []) = .next (nextState (keyed [0x00000000] [])) :=
  ⟨by decide, by decide, by decide, rfl⟩

/-- KeyIdIsOnlyATag: a BEGIN that runs. -/
theorem witness_keyId :
    (∀ k, fetch (keyed [0x40000000, 3, 0, 0] [1, 2, 3]) ≠ .ok (.ldkid k)) ∧
    stepOutcome (keyed [0x40000000, 3, 0, 0] [1, 2, 3]) = .ok := by
  refine ⟨fun k h => ?_, by decide⟩
  have h2 : fetch (keyed [0x40000000, 3, 0, 0] [1, 2, 3]) =
    .ok (.beginSample false false 3 (List.replicate 8 0)) := by decide
  rw [h2] at h
  cases h

/-- OutputLengthFollowsInput: a step that moves bytes and one that does not complete. -/
theorem witness_output :
    stepOutcome (opened iv8 4 (keyed [0x50000004, 0] [1, 2, 3, 4])) = .ok ∧
    stepOutcome (opened iv8 4 (keyed [0x50000004, 0] [1, 2, 3])) ≠ .ok := by decide

/-- SampleMovesExactlySlenBytes: BEGIN, two SUB, END; and BEGIN, END at once (k = 0). -/
theorem witness_sample :
    let s := keyed [0x40000001, 3, 0, 0, 0x50000001, 0, 0x50000002, 0, 0x60000000] [1, 2, 3]
    let s0 := keyed [0x40000001, 0, 0, 0, 0x60000000] []
    EngineInv s ∧ s.phase = .idle ∧ (∀ j, j ≤ 2 → (afterSteps (j + 1) s).phase = .sample) ∧
      (afterSteps 4 s).phase = .idle ∧ (afterSteps 4 s).dip = 3 ∧
    EngineInv s0 ∧ (∀ j, j ≤ 0 → (afterSteps (j + 1) s0).phase = .sample) ∧
      (afterSteps 2 s0).phase = .idle := by
  refine ⟨by decide, by decide, fun j hj => ?_, by decide, by decide, by decide, fun j hj => ?_,
    by decide⟩
  · interval_cases j <;> decide
  · interval_cases j
    decide

/-- LateAppendsChangeNoResult: two steps, neither of which holds. -/
theorem witness_late :
    let s := opened iv8 4 (keyed [0x50000004, 0, 0x60000000] [1, 2, 3, 4])
    ∀ j, j < 2 → stepOutcome (afterSteps j s) ≠ .holdCmd ∧ stepOutcome (afterSteps j s) ≠ .holdDin := by
  decide

end Sys2Proof.Tests
end

section
/-! PROOFS. The registers as the host sees them (10_state.md): what every register number reads (R46), that
no read and no output signal depends on KEY (R28), and how PHASE moves (R29). -/

namespace Sys2Proof.Machine

/-! ### The REG port (R46) -/

/-- The word of four bytes is their big-endian number (R7, R93). -/
theorem wordOfQuad_toNat (q : Quad) : (wordOfQuad q).toNat = beNat q.toList := by
  simp only [wordOfQuad, toNat_append_add, Quad.toList, beNat, List.length_cons, List.length_nil]
  omega

/-- Word `k` of a 16-byte register is the big-endian number of its bytes `4k` to `4k + 3` (R46). -/
theorem blockWord_toNat (b : Block) {k : Nat} (hk : k < 4) :
    (blockWord b k).toNat = beNat ((b.toList.drop (4 * k)).take 4) := by
  match k, hk with
  | 0, _ => exact wordOfQuad_toNat b.c0
  | 1, _ => exact wordOfQuad_toNat b.c1
  | 2, _ => exact wordOfQuad_toNat b.c2
  | 3, _ => exact wordOfQuad_toNat b.c3

/-- The fields of STATUS at their places, every other bit 0 (R46). -/
theorem statusWord_toNat (s : State) :
    (statusWord s).toNat = (phaseBits s.phase).toNat + 4 * s.keyv.toNat + 8 * s.usesub.toNat +
      16 * s.iv16.toNat + 2 ^ 8 * s.fcode.toNat := by
  simp only [statusWord, toNat_append_add, BitVec.toNat_ofBool, BitVec.ofNat_eq_ofNat,
    BitVec.toNat_ofNat, Nat.zero_mod]
  omega

/-- The fields of CONFIG at their places, every other bit 0 (R46). -/
theorem configWord_toNat (s : State) :
    (configWord s).toNat =
      2 ^ 24 * (schemeBit s.scheme).toNat + 2 ^ 8 * s.crypt.toNat + s.skip.toNat := by
  simp only [configWord, toNat_append_add, BitVec.ofNat_eq_ofNat, BitVec.toNat_ofNat,
    Nat.zero_mod]
  omega

theorem regRead_kid (s : State) {k : Nat} (hk : k < 4) :
    regRead (BitVec.ofNat 6 (0x08 + k)) s = blockWord s.kid k := by
  interval_cases k <;> rfl

theorem regRead_iv (s : State) {k : Nat} (hk : k < 4) :
    regRead (BitVec.ofNat 6 (0x0C + k)) s = blockWord s.iv k := by
  interval_cases k <;> rfl

theorem regRead_chain (s : State) {k : Nat} (hk : k < 4) :
    regRead (BitVec.ofNat 6 (0x10 + k)) s = blockWord s.chain k := by
  interval_cases k <;> rfl

/-- The numbers of KEY and every number above them read 0 (R28, R46). -/
theorem regRead_eq_zero_of_ge (s : State) {n : BitVec 6} (hn : 0x14 ≤ n.toNat) :
    regRead n s = 0 := by
  unfold regRead
  split
  case h_20 => rfl
  all_goals omega

/-- Settles O49: one lemma for each kind of register. -/
theorem registerPortMap : Obligations.RegisterPortMap := by
  intro s
  have patpos_read : (regRead 0x05 s).toNat = s.patpos.toNat :=
    BitVec.toNat_setWidth_of_le (by decide)
  refine ⟨statusWord_toNat s, configWord_toNat s, rfl, rfl, rfl, patpos_read, rfl, rfl,
    fun k hk => ?_, fun n => regRead_eq_zero_of_ge s⟩
  rw [regRead_kid s hk, regRead_iv s hk, regRead_chain s hk]
  exact ⟨blockWord_toNat s.kid hk, blockWord_toNat s.iv hk, blockWord_toNat s.chain hk⟩

/-! ### What the data paths leave does not depend on KEY (R28)

A walk decrypts with KEY, but CHAIN is ciphertext or IV and PATPOS counts blocks. -/

/-- CHAIN and PATPOS after `CbcsPlain` are the same for every key (R193). -/
theorem cbcsPlain_chain_patpos_key (k k' c : Block) (p : BitVec 9) (cs : List Block) :
    (cbcsPlain k c p cs).chain = (cbcsPlain k' c p cs).chain ∧
      (cbcsPlain k c p cs).patpos = (cbcsPlain k' c p cs).patpos := by
  induction cs generalizing c with
  | nil => exact ⟨rfl, rfl⟩
  | cons b bs ih => exact ih b

/-- CHAIN and PATPOS after `CbcsPattern` are the same for every key (R194). -/
theorem cbcsPattern_chain_patpos_key (k k' v : Block) (y z : Byte) (c : Block) (p : BitVec 9)
    (cs : List Block) :
    (cbcsPattern k v y z c p cs).chain = (cbcsPattern k' v y z c p cs).chain ∧
      (cbcsPattern k v y z c p cs).patpos = (cbcsPattern k' v y z c p cs).patpos := by
  induction cs generalizing c p with
  | nil => exact ⟨rfl, rfl⟩
  | cons b bs ih =>
    simp only [cbcsPattern]
    split
    · exact ih b _
    · exact ih _ _

/-- CHAIN and PATPOS after `CbcsRange` are the same for every key (R191). -/
theorem cbcsWalk_chain_patpos_key (q : Params) (k k' v : Block) (y z : Byte) (c : Block)
    (p : BitVec 9) (cs : List Block) :
    (cbcsWalk q k v y z c p cs).chain = (cbcsWalk q k' v y z c p cs).chain ∧
      (cbcsWalk q k v y z c p cs).patpos = (cbcsWalk q k' v y z c p cs).patpos := by
  unfold cbcsWalk
  split
  · exact cbcsPlain_chain_patpos_key ..
  · exact cbcsPattern_chain_patpos_key ..

/-- A walk of a range enters the same blocks whatever KEY and DOUT are, so it leaves the same CHAIN. -/
theorem rangeChain_withKeyOut (n : Nat) (s : State) (k : Block) (d : List Byte) :
    rangeChain n { s with key := k, dout := d } = rangeChain n s := by
  unfold rangeChain
  cases s.scheme with
  | cenc => rfl
  | cbcs => exact (cbcsWalk_chain_patpos_key ..).1

/-- The same for PATPOS. -/
theorem rangePatpos_withKeyOut (n : Nat) (s : State) (k : Block) (d : List Byte) :
    rangePatpos n { s with key := k, dout := d } = rangePatpos n s := by
  unfold rangePatpos
  cases s.scheme with
  | cenc => rfl
  | cbcs => exact (cbcsWalk_chain_patpos_key ..).2

/-- How many bytes a range writes does not depend on KEY, whether or not its data has arrived. -/
theorem rangeBytes_length_withKeyOut (n : Nat) (s : State) (k : Block) (d : List Byte) :
    (rangeBytes n { s with key := k, dout := d }).length = (rangeBytes n s).length := by
  unfold rangeBytes
  cases s.scheme with
  | cenc => simp only [cencPlaintext, cencRange_length]; rfl
  | cbcs => simp only [bytesOfBlocks_length, cbcsRangeWalk, cbcsWalk_length, blocksOf_length]

/-! ### States that differ only in KEY and output bytes (R28) -/

theorem sameButKey_iff (s t : State) :
    SameButKey s t ↔
      ∃ k d, t = { s with key := k, dout := d } ∧ d.length = s.dout.length := by
  constructor
  · rintro ⟨ht, hd⟩
    exact ⟨t.key, t.dout, ht, hd⟩
  · rintro ⟨k, d, rfl, hd⟩
    exact ⟨rfl, hd⟩

section
variable {s t : State}

theorem regRead_sameButKey (h : SameButKey s t) (n : BitVec 6) : regRead n s = regRead n t := by
  obtain ⟨k, d, rfl, -⟩ := (sameButKey_iff s t).1 h
  rfl

theorem doneOutput_sameButKey (h : SameButKey s t) : doneOutput s = doneOutput t := by
  obtain ⟨k, d, rfl, -⟩ := (sameButKey_iff s t).1 h
  rfl

theorem faultOutput_sameButKey (h : SameButKey s t) : faultOutput s = faultOutput t := by
  obtain ⟨k, d, rfl, -⟩ := (sameButKey_iff s t).1 h
  rfl

theorem fetch_sameButKey (h : SameButKey s t) : fetch s = fetch t := by
  obtain ⟨k, d, rfl, -⟩ := (sameButKey_iff s t).1 h
  rfl

theorem instrOutcome_sameButKey (h : SameButKey s t) (i : Instr) :
    instrOutcome i s = instrOutcome i t := by
  obtain ⟨k, d, rfl, -⟩ := (sameButKey_iff s t).1 h
  cases i <;> rfl

/-- No outcome depends on KEY: the fault checks look at KEYV only (R141). -/
theorem stepOutcome_sameButKey (h : SameButKey s t) : stepOutcome s = stepOutcome t := by
  have hf := fetch_sameButKey h
  cases hs : fetch s with
  | ok i =>
    rw [stepOutcome_of_ok hs, stepOutcome_of_ok (hf ▸ hs), instrOutcome_sameButKey h]
  | error r =>
    rw [stepOutcome_of_error hs, stepOutcome_of_error (hf ▸ hs)]
    obtain ⟨k, d, rfl, -⟩ := (sameButKey_iff s t).1 h
    rfl

/-! Each update keeps two such states alike. -/

theorem raise_sameButKey (h : SameButKey s t) (f : FaultKind) :
    SameButKey (raise f s) (raise f t) := by
  obtain ⟨k, d, rfl, hd⟩ := (sameButKey_iff s t).1 h
  exact ⟨rfl, hd⟩

theorem advance_sameButKey (h : SameButKey s t) (n : Nat) :
    SameButKey (advance n s) (advance n t) := by
  obtain ⟨k, d, rfl, hd⟩ := (sameButKey_iff s t).1 h
  exact ⟨rfl, hd⟩

theorem writeSpos_sameButKey (h : SameButKey s t) (w : Word) :
    SameButKey { s with spos := w } { t with spos := w } := by
  obtain ⟨k, d, rfl, hd⟩ := (sameButKey_iff s t).1 h
  exact ⟨rfl, hd⟩

theorem openSample_sameButKey (h : SameButKey s t) (a b : Bool) (l : Word) (v : List Byte) :
    SameButKey (openSample a b l v s) (openSample a b l v t) := by
  obtain ⟨k, d, rfl, hd⟩ := (sameButKey_iff s t).1 h
  exact ⟨rfl, hd⟩

theorem copyClear_sameButKey (h : SameButKey s t) (n : Nat) :
    SameButKey (copyClear n s) (copyClear n t) := by
  obtain ⟨k, d, rfl, hd⟩ := (sameButKey_iff s t).1 h
  refine ⟨rfl, ?_⟩
  rw [copyClear_dout, copyClear_dout, List.length_append, List.length_append, hd]
  rfl

/-- A range decrypts with KEY and yet leaves two such states alike: only the bytes it writes differ. -/
theorem range_sameButKey (h : SameButKey s t) (n : Nat) :
    SameButKey (range n s) (range n t) := by
  obtain ⟨k, d, rfl, hd⟩ := (sameButKey_iff s t).1 h
  refine (sameButKey_iff _ _).2 ⟨k, d ++ rangeBytes n { s with key := k, dout := d }, ?_, ?_⟩
  · rw [range_eq, range_eq, rangeChain_withKeyOut, rangePatpos_withKeyOut]
  · rw [range_eq n s, List.length_append, List.length_append, rangeBytes_length_withKeyOut, hd]

theorem beginEffect_sameButKey (h : SameButKey s t) (a b : Bool) (l : Word) (v : List Byte) :
    SameButKey (beginEffect a b l v s) (beginEffect a b l v t) := by
  have ho := openSample_sameButKey h a b l v
  cases b with
  | true => exact advance_sameButKey ho _
  | false => exact advance_sameButKey (writeSpos_sameButKey (range_sameButKey ho _) l) _

theorem subEffect_sameButKey (h : SameButKey s t) (c : BitVec 16) (e : Word) :
    SameButKey (subEffect c e s) (subEffect c e t) := by
  have hr := range_sameButKey (copyClear_sameButKey h c.toNat) e.toNat
  have hp : pairEnd c e s = pairEnd c e t := by
    obtain ⟨k, d, rfl, -⟩ := (sameButKey_iff s t).1 h
    rfl
  unfold subEffect
  rw [hp]
  exact advance_sameButKey (writeSpos_sameButKey hr _) _

theorem instrEffect_sameButKey (h : SameButKey s t) (i : Instr) :
    SameButKey (instrEffect i s) (instrEffect i t) := by
  cases i with
  | beginSample a b l v => exact beginEffect_sameButKey h a b l v
  | sub c e => exact subEffect_sameButKey h c e
  | _ =>
    obtain ⟨k, d, rfl, hd⟩ := (sameButKey_iff s t).1 h
    exact ⟨rfl, hd⟩

theorem stepEffect_sameButKey (h : SameButKey s t) :
    SameButKey (stepEffect s) (stepEffect t) := by
  unfold stepEffect
  rw [← fetch_sameButKey h]
  cases fetch s with
  | ok i => exact instrEffect_sameButKey h i
  | error r => exact h

theorem settle_sameButKey (h : SameButKey s t) {e e' : State} (he : SameButKey e e')
    (o : StepOutcome) : SameButKey (settle o s e) (settle o t e') := by
  cases o with
  | ok => exact he
  | fault f => exact raise_sameButKey h f
  | holdCmd => exact h
  | holdDin => exact h
  | halted => exact h

/-- A step of each keeps two such states alike. -/
theorem step_sameButKey (h : SameButKey s t) {s' t' : State} (hs : step s = .next s')
    (ht : step t = .next t') : SameButKey s' t' := by
  rw [step_next_iff] at hs ht
  rw [hs, ht, ← stepOutcome_sameButKey h]
  exact settle_sameButKey h (stepEffect_sameButKey h) _

end

/-- Settles O50: a step keeps `SameButKey`, and no read and no output tells such states apart. -/
theorem keyReachesOnlyOutputBytes : Obligations.KeyReachesOnlyOutputBytes := by
  refine ⟨fun s n hn _ => regRead_eq_zero_of_ge s hn, fun s t s' t' h hs ht => ?_⟩
  have h' := step_sameButKey h hs ht
  exact ⟨h', regRead_sameButKey h, regRead_sameButKey h', doneOutput_sameButKey h',
    faultOutput_sameButKey h'⟩

/-! ### PHASE (R29) -/

@[simp] theorem legalInIdle_iff (s : State) : legalInIdle s = true ↔ s.phase = .idle := by
  simp [legalInIdle]

@[simp] theorem legalInSample_iff (s : State) : legalInSample s = true ↔ s.phase = .sample := by
  simp [legalInSample]

@[simp] theorem beginEffect_phase (a b : Bool) (l : Word) (v : List Byte) (s : State) :
    (beginEffect a b l v s).phase = .sample := by
  cases b <;> simp [beginEffect]

@[simp] theorem subEffect_phase (c : BitVec 16) (e : Word) (s : State) :
    (subEffect c e s).phase = s.phase := by
  simp [subEffect]

theorem beginOutcome_ok_phase {b : Bool} {l : Word} {s : State}
    (h : beginOutcome b l s = .ok) : s.phase = .idle := by
  obtain ⟨-, legal, -, -⟩ := (judge_ok ..).1 h
  exact (legalInIdle_iff s).1 legal

theorem endOutcome_ok_phase {s : State} (h : endOutcome s = .ok) : s.phase = .sample := by
  obtain ⟨-, legal, -, -⟩ := (judge_ok ..).1 h
  exact (legalInSample_iff s).1 legal

theorem finOutcome_ok_phase {s : State} (h : finOutcome s = .ok) : s.phase = .idle := by
  obtain ⟨-, legal, -, -⟩ := (judge_ok ..).1 h
  exact (legalInIdle_iff s).1 legal

/-- Every command's outcome is decided by the common step (R140 steps 1 and 5 to 7). -/
theorem instrOutcome_eq_judge (i : Instr) (s : State) :
    ∃ legal checks need, instrOutcome i s = judge s legal checks need := by
  cases i with
  | nop => exact ⟨true, [], 0, rfl⟩
  | beginSample a b l v => exact ⟨legalInIdle s, beginChecks b l s, beginNeed b l, rfl⟩
  | sub c e =>
    exact ⟨legalInSample s && s.usesub, subChecks c e s, c.toNat + e.toNat, rfl⟩
  | endSample => exact ⟨legalInSample s, endChecks s, 0, rfl⟩
  | _ => exact ⟨legalInIdle s, [], 0, rfl⟩

/-- Every command's outcome in DONE and FAULT is halted (R140 step 1). -/
theorem instrOutcome_of_isHalted {s : State} (h : isHalted s = true) (i : Instr) :
    instrOutcome i s = .halted := by
  obtain ⟨legal, checks, need, hj⟩ := instrOutcome_eq_judge i s
  rw [hj, judge_halted, h]

/-- The step's outcome in DONE and FAULT is halted (R252). -/
theorem stepOutcome_of_isHalted {s : State} (h : isHalted s = true) : stepOutcome s = .halted := by
  cases hf : fetch s with
  | ok i => rw [stepOutcome_of_ok hf, instrOutcome_of_isHalted h]
  | error r => simp [stepOutcome_of_error hf, rejectOutcome, h]

/-- A fault is raised in IDLE or SAMPLE only. -/
theorem phase_of_stepOutcome_fault {s : State} {f : FaultKind} (h : stepOutcome s = .fault f) :
    s.phase = .idle ∨ s.phase = .sample := by
  rw [← isHalted_eq_false, Bool.eq_false_iff]
  intro halted
  rw [stepOutcome_of_isHalted halted] at h
  cases h

/-- A completed step is the effect of the command at CPC, whose own outcome is `ok`. -/
theorem step_completed {s t : State} {i : Instr} (h : step s = .next t) (hf : fetch s = .ok i)
    (ho : stepOutcome s = .ok) : instrOutcome i s = .ok ∧ t = instrEffect i s := by
  rw [step_next_iff, ho, settle_ok, stepEffect, hf] at h
  exact ⟨stepOutcome_of_ok hf ▸ ho, h⟩

theorem step_faulted {s t : State} {f : FaultKind} (h : step s = .next t)
    (ho : stepOutcome s = .fault f) : t = raise f s := by
  rwa [step_next_iff, ho, settle_fault] at h

/-- Only BEGIN, END and FIN have an effect that changes PHASE. -/
theorem instrEffect_phase_ne {i : Instr} {s : State} (h : (instrEffect i s).phase ≠ s.phase) :
    (∃ a b l v, i = .beginSample a b l v) ∨ i = .endSample ∨ i = .fin := by
  cases i with
  | beginSample a b l v => exact .inl ⟨a, b, l, v, rfl⟩
  | endSample => exact .inr (.inl rfl)
  | fin => exact .inr (.inr rfl)
  | sub c e => exact absurd (subEffect_phase c e s) h
  | nop => exact absurd rfl h
  | ldkid _ => exact absurd rfl h
  | ldkey _ => exact absurd rfl h
  | cfg _ _ _ => exact absurd rfl h

/-- A step that changes PHASE completes BEGIN, END or FIN, or raises a fault. -/
theorem step_phase_ne {s t : State} (h : step s = .next t) (hp : t.phase ≠ s.phase) :
    (stepOutcome s = .ok ∧ ((∃ a b l v, fetch s = .ok (.beginSample a b l v)) ∨
      fetch s = .ok .endSample ∨ fetch s = .ok .fin)) ∨ ∃ f, stepOutcome s = .fault f := by
  obtain ⟨-, rfl⟩ | ⟨f, ho, -⟩ | ⟨i, hf, -, ho, rfl⟩ := step_cases h
  · exact absurd rfl hp
  · exact .inr ⟨f, ho⟩
  · obtain ⟨a, b, l, v, rfl⟩ | rfl | rfl := instrEffect_phase_ne hp
    · exact .inl ⟨ho, .inl ⟨a, b, l, v, hf⟩⟩
    · exact .inl ⟨ho, .inr (.inl hf)⟩
    · exact .inl ⟨ho, .inr (.inr hf)⟩

/-- Of the host's moves only the reset changes PHASE (R290). -/
theorem hostMove_phase_ne {m : HostMove} {s t : State} (h : hostMove m s = some t)
    (hp : t.phase ≠ s.phase) : m = .reset := by
  cases m with
  | reset => rfl
  | appendCmd ws =>
    obtain ⟨-, rfl⟩ : isHalted s = false ∧ appendCmd ws s = t := by simpa [hostMove] using h
    exact absurd rfl hp
  | appendDin bs =>
    obtain ⟨-, rfl⟩ : isHalted s = false ∧ appendDin bs s = t := by simpa [hostMove] using h
    exact absurd rfl hp
  | takeDout => cases h; exact absurd rfl hp
  | readReg n => cases h; exact absurd rfl hp

/-- Settles O54: each transition from what the completed command or the fault does, "no others" from
`step_phase_ne` and `hostMove_phase_ne`. -/
theorem phaseTransitions : Obligations.PhaseTransitions := by
  refine ⟨⟨rfl, rfl, rfl, rfl, rfl⟩, fun s => ⟨resetEngine s, rfl, rfl⟩,
    fun m s t => hostMove_phase_ne, fun s t h => ⟨fun a b l v hf ho => ?_, fun hf ho => ?_,
      fun hf ho => ?_, fun f ho => ?_, step_phase_ne h⟩⟩
  · obtain ⟨hok, rfl⟩ := step_completed h hf ho
    exact ⟨beginOutcome_ok_phase hok, beginEffect_phase a b l v s⟩
  · obtain ⟨hok, rfl⟩ := step_completed h hf ho
    exact ⟨endOutcome_ok_phase hok, rfl⟩
  · obtain ⟨hok, rfl⟩ := step_completed h hf ho
    exact ⟨finOutcome_ok_phase hok, rfl⟩
  · rw [step_faulted h ho]
    exact ⟨phase_of_stepOutcome_fault ho, rfl⟩

end Sys2Proof.Machine
end

section
/-! PROOFS. Encoding (30_encoding.md): how bytes are packed into payload words (R93). -/

namespace Sys2Proof

/-! ### Payload packing (R93) -/

/-- A sequence that does not begin with four bytes is shorter than that: no word is packed. -/
theorem length_lt_four_of_ne_cons {bs : List Byte}
    (h : ∀ b0 b1 b2 b3 t, bs = b0 :: b1 :: b2 :: b3 :: t → False) : bs.length < 4 := by
  match bs, h with
  | [], _ | [_], _ | [_, _], _ | [_, _, _], _ => simp
  | b0 :: b1 :: b2 :: b3 :: t, h => exact (h b0 b1 b2 b3 t rfl).elim

/-- Packing gives one word for each four bytes. -/
theorem wordsOfBytes_length (bs : List Byte) : (wordsOfBytes bs).length = bs.length / 4 := by
  induction bs using wordsOfBytes.induct with
  | case1 b0 b1 b2 b3 bs ih => simp only [wordsOfBytes, List.length_cons, ih]; omega
  | case2 bs h =>
    have short := length_lt_four_of_ne_cons h
    simp only [wordsOfBytes, List.length_nil]
    omega

/-- Word `k` carries the bytes `4k` to `4k + 3`. -/
theorem wordsOfBytes_getD (bs : List Byte) {k : Nat} (hk : k < bs.length / 4) :
    (wordsOfBytes bs).getD k 0 =
      wordOfQuad ⟨bs.getD (4 * k) 0, bs.getD (4 * k + 1) 0, bs.getD (4 * k + 2) 0,
        bs.getD (4 * k + 3) 0⟩ := by
  induction bs using wordsOfBytes.induct generalizing k with
  | case1 b0 b1 b2 b3 bs ih =>
    cases k with
    | zero => rfl
    | succ k =>
      simp only [List.length_cons] at hk
      exact ih (by omega)
  | case2 bs h =>
    have short := length_lt_four_of_ne_cons h
    omega

/-- Unpacking undoes packing on a sequence of whole words. -/
theorem bytesOfWords_wordsOfBytes (bs : List Byte) (hbs : bs.length % 4 = 0) :
    bytesOfWords (wordsOfBytes bs) = bs := by
  induction bs using wordsOfBytes.induct with
  | case1 b0 b1 b2 b3 bs ih =>
    simp only [List.length_cons] at hbs
    rw [wordsOfBytes, bytesOfWords, quadOfWord_wordOfQuad, ih (by omega)]
    rfl
  | case2 bs h =>
    have short := length_lt_four_of_ne_cons h
    have empty : bs = [] := List.eq_nil_of_length_eq_zero (by omega)
    rw [empty]
    rfl

/-- R93's formula for one payload word. -/
theorem wordOfQuad_toNat_formula (q : Quad) :
    (wordOfQuad q).toNat =
      q.r0.toNat * 2 ^ 24 + q.r1.toNat * 2 ^ 16 + q.r2.toNat * 2 ^ 8 + q.r3.toNat := by
  rw [Machine.wordOfQuad_toNat]
  simp only [Quad.toList, Machine.beNat, List.length_cons, List.length_nil]
  omega

/-- Settles O4: one lemma for each clause of R93; the example is evaluated. -/
theorem payloadPackingIsBigEndian : Obligations.PayloadPackingIsBigEndian :=
  ⟨wordOfQuad_toNat_formula,
    fun bs hbs => ⟨wordsOfBytes_length bs, fun _ => wordsOfBytes_getD bs,
      bytesOfWords_wordsOfBytes bs hbs⟩,
    by decide⟩

end Sys2Proof
end

section
/-! PROOFS. Which command is legal in which phase (30_encoding.md R98). -/

namespace Sys2Proof.Machine

/-! ### The table of R98 -/

/-- The command is legal where the engine is not halted: its row of R98. -/
def phaseLegal (i : Instr) (s : State) : Bool :=
  match i with
  | .nop => true
  | .ldkid _ => legalInIdle s
  | .ldkey _ => legalInIdle s
  | .cfg _ _ _ => legalInIdle s
  | .beginSample _ _ _ _ => legalInIdle s
  | .sub _ _ => legalInSample s && s.usesub
  | .endSample => legalInSample s
  | .fin => legalInIdle s

/-- The commands R98 calls illegal in IDLE. -/
theorem phaseLegal_eq_false_of_idle {s : State} (h : s.phase = .idle) (i : Instr) :
    phaseLegal i s = false ↔ i = .endSample ∨ ∃ c e, i = .sub c e := by
  cases i <;> simp [phaseLegal, legalInIdle, legalInSample, h]

/-- The commands R98 calls illegal in SAMPLE. -/
theorem phaseLegal_eq_false_of_sample {s : State} (h : s.phase = .sample) (i : Instr) :
    phaseLegal i s = false ↔
      (∃ k, i = .ldkid k) ∨ (∃ k, i = .ldkey k) ∨ (∃ n c k, i = .cfg n c k) ∨
        (∃ a b l v, i = .beginSample a b l v) ∨ i = .fin ∨
        (s.usesub = false ∧ ∃ c e, i = .sub c e) := by
  cases i <;> simp [phaseLegal, legalInIdle, legalInSample, h]

/-! ### IllegalCommand is raised by the table alone -/

/-- The fault of the checks is the fault of one of them. -/
theorem exists_check_of_firstFailing {checks : List Check} {f : FaultKind}
    (h : firstFailing checks = some f) : ∃ c ∈ checks, c.kind = f := by
  induction checks with
  | nil => cases h
  | cons c cs ih =>
    rw [firstFailing_cons] at h
    split at h
    · exact ⟨c, List.mem_cons_self, Option.some.inj h⟩
    · obtain ⟨d, hd, hk⟩ := ih h
      exact ⟨d, List.mem_cons_of_mem c hd, hk⟩

/-- Where no check raises IllegalCommand itself, only illegality does. -/
theorem judge_illegalCommand {checks : List Check}
    (hc : ∀ c ∈ checks, c.kind ≠ .illegalCommand) (s : State) (legal : Bool) (need : Nat) :
    judge s legal checks need = .fault .illegalCommand ↔ isHalted s = false ∧ legal = false := by
  have no_check : firstFailing checks ≠ some .illegalCommand := fun h => by
    obtain ⟨c, hmem, hk⟩ := exists_check_of_firstFailing h
    exact hc c hmem hk
  simp [judge_fault, no_check]

/-- A command in IDLE or SAMPLE raises IllegalCommand exactly where its row of R98 says illegal. -/
theorem instrOutcome_illegalCommand (i : Instr) (s : State) :
    instrOutcome i s = .fault .illegalCommand ↔ isHalted s = false ∧ phaseLegal i s = false := by
  cases i with
  | beginSample a b l v =>
    exact judge_illegalCommand (checks := beginChecks b l s) (by simp [beginChecks]) s _ _
  | sub c e => exact judge_illegalCommand (checks := subChecks c e s) (by simp [subChecks]) s _ _
  | endSample => exact judge_illegalCommand (checks := endChecks s) (by simp [endChecks]) s _ _
  | _ => exact judge_illegalCommand (checks := []) (by simp) s _ _

/-- A command is halted exactly in DONE and FAULT (R140 step 1). -/
theorem instrOutcome_halted (i : Instr) (s : State) :
    instrOutcome i s = .halted ↔ s.phase = .done ∨ s.phase = .fault := by
  obtain ⟨legal, checks, need, hj⟩ := instrOutcome_eq_judge i s
  rw [hj, judge_halted, isHalted_eq_true]

/-- A command whose outcome is a fault takes it (R250). -/
theorem exec_of_fault {i : Instr} {s : State} {f : FaultKind} (h : instrOutcome i s = .fault f) :
    exec i s = .next (raise f s) := by
  rw [exec_eq, h, settle_fault]

/-- Settles O16: IllegalCommand is illegality in IDLE or in SAMPLE, each a column of R98's table. -/
theorem phaseLegality : Obligations.PhaseLegality := by
  refine fun i s => ⟨?_, instrOutcome_halted i s, fun h => ?_, exec_of_fault⟩
  · rw [instrOutcome_illegalCommand, isHalted_eq_false, or_and_right]
    exact or_congr (and_congr_right fun idle => phaseLegal_eq_false_of_idle idle i)
      (and_congr_right fun sample => phaseLegal_eq_false_of_sample sample i)
  · exact stepOutcome_of_isHalted ((isHalted_eq_true s).2 h)

end Sys2Proof.Machine
end

section
/-! PROOFS. The stored IV of BEGIN in the register IV (41_sample_control.md R147). -/

namespace Sys2Proof.Machine

/-! ### Padding to a block -/

/-- Byte `i` of the block read from a sequence is byte `i` of the sequence, zero past its end. -/
theorem getElem_toList_blockOfBytes (bs : List Byte) {i : Nat}
    (hi : i < (blockOfBytes bs).toList.length) :
    (blockOfBytes bs).toList[i] = bs.getD i 0 := by
  have hi16 : i < 16 := hi
  interval_cases i <;> simp [Block.toList, Quad.toList, blockOfBytes, quadOfBytes]

/-- A sequence of at most 16 bytes stands at the low indices of its block, zero bytes above it. -/
theorem toList_blockOfBytes_eq_append {bs : List Byte} (hbs : bs.length ≤ 16) :
    (blockOfBytes bs).toList = bs ++ List.replicate (16 - bs.length) 0 := by
  refine List.ext_getElem ?_ fun i hi _ => ?_
  · rw [block_toList_length, List.length_append, List.length_replicate]
    omega
  · rw [getElem_toList_blockOfBytes bs hi, List.getElem_append]
    split
    · next inside => exact List.getD_eq_getElem bs 0 inside
    · next past => rw [List.getElem_replicate, List.getD_eq_default bs 0 (Nat.le_of_not_lt past)]

/-! ### BEGIN writes IV (R141, R147) -/

theorem storedIvLen_le (a : Bool) : storedIvLen a ≤ 16 := by
  cases a <;> decide

/-- A command whose outcome is `ok` has its effect (R140 step 8). -/
theorem exec_of_ok {i : Instr} {s : State} (h : instrOutcome i s = .ok) :
    exec i s = .next (instrEffect i s) := by
  rw [exec_eq, h, settle_ok]

/-- BEGIN leaves the padded stored IV in IV: the range of a sample without a subsample list, in either
scheme, does not write it. -/
@[simp] theorem beginEffect_iv (a b : Bool) (l : Word) (v : List Byte) (s : State) :
    (beginEffect a b l v s).iv = padIv v := by
  cases b <;> simp [beginEffect]

/-- Settles O31: BEGIN writes `padIv v`, the block whose bytes are `v` padded on the right. -/
theorem storedIvIsPaddedOnTheRight : Obligations.StoredIvIsPaddedOnTheRight := by
  intro v a b l s hv ok
  refine ⟨beginEffect a b l v s, exec_of_ok ok, ?_⟩
  have fits : v.length ≤ 16 := hv ▸ storedIvLen_le a
  rw [beginEffect_iv]
  exact toList_blockOfBytes_eq_append fits

end Sys2Proof.Machine
end

section
/-! PROOFS. Taking a fault (60_exceptions.md): which faults the engine raises (R240, R241) and what fault
entry writes (R250). -/

namespace Sys2Proof.Machine

/-! ### The faults the engine raises (R240, R241) -/

/-- The faults the engine raises itself; the other four belong to the host's components (R241). -/
def EngineFault (f : FaultKind) : Prop :=
  f = .malformedAuxInfo ∨ f = .missingKey ∨ f = .unalignedCipherBlock ∨ f = .illegalCommand

theorem engineFault_malformedAuxInfo : EngineFault .malformedAuxInfo := .inl rfl
theorem engineFault_missingKey : EngineFault .missingKey := .inr (.inl rfl)
theorem engineFault_unalignedCipherBlock : EngineFault .unalignedCipherBlock := .inr (.inr (.inl rfl))
theorem engineFault_illegalCommand : EngineFault .illegalCommand := .inr (.inr (.inr rfl))

/-- The codes of R240 for the faults the engine raises. -/
theorem faultCode_of_engineFault {f : FaultKind} (h : EngineFault f) :
    f = .malformedAuxInfo ∧ faultCode f = 5 ∨ f = .missingKey ∧ faultCode f = 6 ∨
      f = .unalignedCipherBlock ∧ faultCode f = 7 ∨ f = .illegalCommand ∧ faultCode f = 8 := by
  obtain rfl | rfl | rfl | rfl := h
  · exact .inl ⟨rfl, rfl⟩
  · exact .inr (.inl ⟨rfl, rfl⟩)
  · exact .inr (.inr (.inl ⟨rfl, rfl⟩))
  · exact .inr (.inr (.inr ⟨rfl, rfl⟩))

/-- BEGIN's own checks raise MissingKey and UnalignedCipherBlock (R242, R244). -/
theorem beginChecks_engineFault {b : Bool} {l : Word} {s : State} :
    ∀ c ∈ beginChecks b l s, EngineFault c.kind := by
  simp [beginChecks, engineFault_missingKey, engineFault_unalignedCipherBlock]

/-- SUB's own checks raise MalformedAuxInfo and UnalignedCipherBlock (R242, R243). -/
theorem subChecks_engineFault {c : BitVec 16} {e : Word} {s : State} :
    ∀ k ∈ subChecks c e s, EngineFault k.kind := by
  simp [subChecks, engineFault_malformedAuxInfo, engineFault_unalignedCipherBlock]

/-- END's own check raises MalformedAuxInfo (R243). -/
theorem endChecks_engineFault {s : State} : ∀ c ∈ endChecks s, EngineFault c.kind := by
  simp [endChecks, engineFault_malformedAuxInfo]

/-- The common step raises IllegalCommand or the fault of one of the command's checks. -/
theorem judge_engineFault {s : State} {legal : Bool} {checks : List Check} {need : Nat}
    {f : FaultKind} (hc : ∀ c ∈ checks, EngineFault c.kind)
    (h : judge s legal checks need = .fault f) : EngineFault f := by
  obtain ⟨-, ⟨-, rfl⟩ | ⟨-, first⟩⟩ := (judge_fault ..).1 h
  · exact engineFault_illegalCommand
  · obtain ⟨c, hmem, rfl⟩ := exists_check_of_firstFailing first
    exact hc c hmem

theorem instrOutcome_engineFault {i : Instr} {s : State} {f : FaultKind}
    (h : instrOutcome i s = .fault f) : EngineFault f := by
  cases i with
  | beginSample a b l v => exact judge_engineFault beginChecks_engineFault h
  | sub c e => exact judge_engineFault subChecks_engineFault h
  | endSample => exact judge_engineFault endChecks_engineFault h
  | _ => exact judge_engineFault (checks := []) (List.forall_mem_nil _) h

/-- Words that are no command raise IllegalCommand and nothing else (R245). -/
theorem rejectOutcome_fault {r : Reject} {s : State} {f : FaultKind}
    (h : rejectOutcome r s = .fault f) : f = .illegalCommand := by
  unfold rejectOutcome at h
  split at h
  · cases h
  · cases r with
    | incomplete => cases h
    | reservedOpcode _ => cases h; rfl
    | reservedBits _ => cases h; rfl

/-- A step raises no fault of the host's components (R241). -/
theorem stepOutcome_engineFault {s : State} {f : FaultKind} (h : stepOutcome s = .fault f) :
    EngineFault f := by
  cases hf : fetch s with
  | ok i => exact instrOutcome_engineFault ((stepOutcome_of_ok hf).symm.trans h)
  | error r =>
    obtain rfl := rejectOutcome_fault ((stepOutcome_of_error hf).symm.trans h)
    exact engineFault_illegalCommand

/-! ### Fault entry (R250) -/

/-- A step whose outcome is a fault takes it. -/
theorem step_of_fault {s : State} {f : FaultKind} (h : stepOutcome s = .fault f) :
    step s = .next (raise f s) := by
  rw [step_eq, h, settle_fault]

@[simp] theorem faultOutput_raise (f : FaultKind) (s : State) : faultOutput (raise f s) = true := rfl

/-- Settles O13: a faulting step answers `raise f s`, and `f` is one of the engine's own faults. -/
theorem faultEntryWritesCodeAndPhaseOnly : Obligations.FaultEntryWritesCodeAndPhaseOnly :=
  fun s f h => ⟨⟨raise f s, step_of_fault h, rfl, faultOutput_raise f s⟩,
    faultCode_of_engineFault (stepOutcome_engineFault h)⟩

end Sys2Proof.Machine
end

section
/-! PROOFS. Encoding (30_encoding.md): header words and their decoding (R91, R95, R96), the round
trip between commands and words (R92, R97), and what the assembler accepts (R101). -/

namespace Sys2Proof

/-! ### Header words (R91, R94) -/

/-- The header word that decodes to a header (R91, R94). -/
def headerWord : Header → Word
  | .nop => headerZ 0
  | .ldkid => headerZ 1
  | .ldkey => headerZ 2
  | .cfg schm crypt skip =>
      (3 : BitVec 4) ++ (0 : BitVec 2) ++ schemeNameBits schm ++ (0 : BitVec 8) ++ crypt ++ skip
  | .beginSample iv16 s =>
      (4 : BitVec 4) ++ (0 : BitVec 26) ++ BitVec.ofBool iv16 ++ BitVec.ofBool s
  | .sub clear => (5 : BitVec 4) ++ (0 : BitVec 12) ++ clear
  | .endSample => headerZ 6
  | .fin => headerZ 7

@[simp] theorem schemeNameOf_schemeNameBits (n : SchemeName) :
    schemeNameOf (schemeNameBits n) = n := by
  cases n <;> rfl

@[simp] theorem schemeNameBits_schemeNameOf (b : BitVec 2) :
    schemeNameBits (schemeNameOf b) = b := by
  revert b; decide

theorem ofBool_getLsbD (h : Word) (k : Nat) : BitVec.ofBool (h.getLsbD k) = h.extractLsb' k 1 := by
  ext i hi
  obtain rfl : i = 0 := by omega
  simp

/-- A header is accepted, as it stands, exactly when its reserved bits are 0 (R96). -/
theorem whenReservedZero_eq_ok {zero : Bool} {op : BitVec 4} {hd hd' : Header} :
    whenReservedZero zero op hd = .ok hd' ↔ zero = true ∧ hd = hd' := by
  cases zero <;> simp [whenReservedZero]

/-! The decode procedure at opcodes 3, 4 and 5, whose header words carry operands (R94, R96). -/

theorem decodeHeader_cfg {h : Word} (hop : h.extractLsb' 28 4 = 3) :
    decodeHeader h = whenReservedZero (h.extractLsb' 26 2 == 0 && h.extractLsb' 16 8 == 0) 3
      (.cfg (schemeNameOf (h.extractLsb' 24 2)) (h.extractLsb' 8 8) (h.extractLsb' 0 8)) := by
  unfold decodeHeader; rw [hop]; rfl

theorem decodeHeader_beginSample {h : Word} (hop : h.extractLsb' 28 4 = 4) :
    decodeHeader h = whenReservedZero (h.extractLsb' 2 26 == 0) 4
      (.beginSample (h.getLsbD 1) (h.getLsbD 0)) := by
  unfold decodeHeader; rw [hop]; rfl

theorem decodeHeader_sub {h : Word} (hop : h.extractLsb' 28 4 = 5) :
    decodeHeader h = whenReservedZero (h.extractLsb' 16 12 == 0) 5 (.sub (h.extractLsb' 0 16)) := by
  unfold decodeHeader; rw [hop]; rfl

theorem decodeHeader_headerWord_cfg (n : SchemeName) (c k : Byte) :
    decodeHeader (headerWord (.cfg n c k)) = .ok (.cfg n c k) := by
  rw [headerWord, decodeHeader_cfg] <;>
    simp (disch := decide) only [extract_append_hi, extract_append_lo, Nat.reduceSub,
      BitVec.extractLsb'_eq_self, schemeNameOf_schemeNameBits]
  rfl

theorem decodeHeader_headerWord_sub (c : BitVec 16) :
    decodeHeader (headerWord (.sub c)) = .ok (.sub c) := by
  rw [headerWord, decodeHeader_sub] <;>
    simp (disch := decide) only [extract_append_hi, extract_append_lo, Nat.reduceSub,
      BitVec.extractLsb'_eq_self]
  rfl

@[simp] theorem decodeHeader_headerWord (hd : Header) : decodeHeader (headerWord hd) = .ok hd := by
  cases hd with
  | cfg n c k => exact decodeHeader_headerWord_cfg n c k
  | beginSample a b => cases a <;> cases b <;> rfl
  | sub c => exact decodeHeader_headerWord_sub c
  | _ => rfl

/-! A word is the concatenation of its fields, as each format cuts it (R91). -/

theorem word_eq_fieldsZ (h : Word) : h = h.extractLsb' 28 4 ++ h.extractLsb' 0 28 :=
  (BitVec.extractLsb'_append_extractLsb' (x := h) (len := 28) (w := 4)).symm

theorem word_eq_fieldsCfg (h : Word) :
    h = h.extractLsb' 28 4 ++ h.extractLsb' 26 2 ++ h.extractLsb' 24 2 ++ h.extractLsb' 16 8 ++
      h.extractLsb' 8 8 ++ h.extractLsb' 0 8 := by
  rw [BitVec.extractLsb'_append_extractLsb'_eq_extractLsb' (start₁ := 26) (len₁ := 2) rfl,
    BitVec.extractLsb'_append_extractLsb'_eq_extractLsb' (start₁ := 24) (len₁ := 2) rfl,
    BitVec.extractLsb'_append_extractLsb'_eq_extractLsb' (start₁ := 16) (len₁ := 8) rfl,
    BitVec.extractLsb'_append_extractLsb'_eq_extractLsb' (start₁ := 8) (len₁ := 8) rfl,
    BitVec.extractLsb'_append_extractLsb']

theorem word_eq_fieldsBegin (h : Word) :
    h = h.extractLsb' 28 4 ++ h.extractLsb' 2 26 ++ h.extractLsb' 1 1 ++ h.extractLsb' 0 1 := by
  rw [BitVec.extractLsb'_append_extractLsb'_eq_extractLsb' (start₁ := 2) (len₁ := 26) rfl,
    BitVec.extractLsb'_append_extractLsb'_eq_extractLsb' (start₁ := 1) (len₁ := 1) rfl,
    BitVec.extractLsb'_append_extractLsb']

theorem word_eq_fieldsSub (h : Word) :
    h = h.extractLsb' 28 4 ++ h.extractLsb' 16 12 ++ h.extractLsb' 0 16 := by
  rw [BitVec.extractLsb'_append_extractLsb'_eq_extractLsb' (start₁ := 16) (len₁ := 12) rfl,
    BitVec.extractLsb'_append_extractLsb']

/-- The only word that decodes to a header is the word R91 writes for it. -/
theorem eq_headerWord_of_decodeHeader {h : Word} {hd : Header} (hok : decodeHeader h = .ok hd) :
    h = headerWord hd := by
  have opcode {n : Nat} (hn : (h.extractLsb' 28 4).toNat = n) :
      h.extractLsb' 28 4 = BitVec.ofNat 4 n := by
    rw [← hn, BitVec.ofNat_toNat, BitVec.setWidth_eq]
  have formatZ {n : Nat} (hn : (h.extractLsb' 28 4).toNat = n) {op : BitVec 4} {hd' : Header}
      (hz : whenReservedZero (h.extractLsb' 0 28 == 0) op hd' = .ok hd) :
      h = headerZ (BitVec.ofNat 4 n) ∧ hd' = hd := by
    obtain ⟨zero, rfl⟩ := whenReservedZero_eq_ok.1 hz
    have fields := word_eq_fieldsZ h
    rw [opcode hn, beq_iff_eq.1 zero] at fields
    exact ⟨fields, rfl⟩
  unfold decodeHeader at hok
  dsimp only at hok
  split at hok
  case h_4 hop =>
    obtain ⟨zero, rfl⟩ := whenReservedZero_eq_ok.1 hok
    obtain ⟨zero2, zero8⟩ := Bool.and_eq_true_iff.1 zero
    have fields := word_eq_fieldsCfg h
    rw [opcode hop, beq_iff_eq.1 zero2, beq_iff_eq.1 zero8] at fields
    rw [headerWord, schemeNameBits_schemeNameOf]
    exact fields
  case h_5 hop =>
    obtain ⟨zero, rfl⟩ := whenReservedZero_eq_ok.1 hok
    have fields := word_eq_fieldsBegin h
    rw [opcode hop, beq_iff_eq.1 zero] at fields
    rw [headerWord, ofBool_getLsbD, ofBool_getLsbD]
    exact fields
  case h_6 hop =>
    obtain ⟨zero, rfl⟩ := whenReservedZero_eq_ok.1 hok
    have fields := word_eq_fieldsSub h
    rw [opcode hop, beq_iff_eq.1 zero] at fields
    exact fields
  case h_9 => cases hok
  all_goals
    next hop =>
    obtain ⟨hw, rfl⟩ := formatZ hop hok
    exact hw

/-- The decode procedure accepts exactly the header words of R91. -/
theorem decodeHeader_eq_ok {h : Word} {hd : Header} :
    decodeHeader h = .ok hd ↔ h = headerWord hd :=
  ⟨eq_headerWord_of_decodeHeader, fun hw => hw ▸ decodeHeader_headerWord hd⟩

/-! ### Commands and words (R92, R97) -/

/-- The header of a command's encoding. -/
def headerOf : Instr → Header
  | .nop => .nop
  | .ldkid _ => .ldkid
  | .ldkey _ => .ldkey
  | .cfg schm crypt skip => .cfg schm crypt skip
  | .beginSample iv16 s _ _ => .beginSample iv16 s
  | .sub clear _ => .sub clear
  | .endSample => .endSample
  | .fin => .fin

/-- The payload words of a command's encoding (R92). -/
def payloadOf : Instr → List Word
  | .ldkid kid => wordsOfBlock kid
  | .ldkey key => wordsOfBlock key
  | .beginSample _ _ slen iv => slen :: wordsOfBytes iv
  | .sub _ enc => [enc]
  | _ => []

theorem encode_eq (i : Instr) : encode i = headerWord (headerOf i) :: payloadOf i := by
  cases i <;> rfl

theorem words_eq (i : Instr) : i.words = 1 + npay (headerOf i) := by
  cases i with
  | beginSample a => cases a <;> rfl
  | _ => rfl

/-- A well-formed command has as many words as R97 counts for it. -/
theorem encode_length {i : Instr} (h : i.wf = true) : (encode i).length = i.words := by
  cases i with
  | nop => exact Laws.EncodedLength.nop h
  | ldkid kid => exact Laws.EncodedLength.ldkid kid h
  | ldkey key => exact Laws.EncodedLength.ldkey key h
  | cfg n c k => exact Laws.EncodedLength.cfg n c k h
  | beginSample a b l v => exact Laws.EncodedLength.beginSample a b l v h
  | sub c e => exact Laws.EncodedLength.sub c e h
  | endSample => exact Laws.EncodedLength.endSample h
  | fin => exact Laws.EncodedLength.fin h

theorem payloadOf_length {i : Instr} (h : i.wf = true) :
    (payloadOf i).length = npay (headerOf i) := by
  have hl := encode_length h
  rw [encode_eq, words_eq, List.length_cons] at hl
  omega

@[simp] theorem blockOfWords_words (b : Block) :
    blockOfWords (wordOfQuad b.c0) (wordOfQuad b.c1) (wordOfQuad b.c2) (wordOfQuad b.c3) = b := by
  simp [blockOfWords]

@[simp] theorem wordsOfBlock_blockOfWords (w0 w1 w2 w3 : Word) :
    wordsOfBlock (blockOfWords w0 w1 w2 w3) = [w0, w1, w2, w3] := by
  simp [wordsOfBlock, blockOfWords]

@[simp] theorem wordsOfBytes_bytesOfWords (ws : List Word) :
    wordsOfBytes (bytesOfWords ws) = ws := by
  induction ws with
  | nil => rfl
  | cons w ws ih =>
    change wordOfQuad (quadOfWord w) :: wordsOfBytes (bytesOfWords ws) = w :: ws
    rw [wordOfQuad_quadOfWord, ih]

theorem bytesOfWords_length (ws : List Word) : (bytesOfWords ws).length = 4 * ws.length := by
  induction ws with
  | nil => rfl
  | cons w ws ih => simp [bytesOfWords, Quad.toList, ih]; omega

/-- BEGIN's stored IV is read back from the payload words that carry it (R92, R93). -/
theorem assembleInstr_beginSample {a : Bool} {v : List Byte} (hv : v.length = storedIvLen a)
    (b : Bool) (l : Word) (rest : List Word) :
    assembleInstr (.beginSample a b) (l :: wordsOfBytes v ++ rest) = .beginSample a b l v := by
  have unpack : bytesOfWords (wordsOfBytes v) = v :=
    bytesOfWords_wordsOfBytes v (by rw [hv]; cases a <;> rfl)
  have count : (wordsOfBytes v).length = storedIvLen a / 4 := by rw [wordsOfBytes_length, hv]
  generalize wordsOfBytes v = ws at unpack count
  subst unpack
  cases a with
  | false => match ws, count with | [_, _], _ => rfl
  | true => match ws, count with | [_, _, _, _], _ => rfl

/-- Header and payload of a well-formed command give the command back (R92). -/
theorem assembleInstr_payloadOf {i : Instr} (h : i.wf = true) (rest : List Word) :
    assembleInstr (headerOf i) (payloadOf i ++ rest) = i := by
  cases i with
  | ldkid kid => simp [headerOf, payloadOf, assembleInstr, wordsOfBlock]
  | ldkey key => simp [headerOf, payloadOf, assembleInstr, wordsOfBlock]
  | beginSample a b l v => exact assembleInstr_beginSample (beq_iff_eq.1 h) b l rest
  | _ => rfl

/-- Settles O1: header and payload are read back one after the other. -/
theorem decodeOfEncode : Obligations.DecodeOfEncode := by
  intro i rest h
  have arrived : ¬ (payloadOf i ++ rest).length < npay (headerOf i) := by
    rw [List.length_append, payloadOf_length h]
    omega
  rw [encode_eq, List.cons_append, decode_cons, decodeHeader_headerWord]
  simp only [if_neg arrived, assembleInstr_payloadOf h]

/-- What decodes to a command is a header word and enough payload words (R97). -/
theorem decode_eq_ok {ws : List Word} {i : Instr} (h : decode ws = .ok i) :
    ∃ hd p, ws = headerWord hd :: p ∧ npay hd ≤ p.length ∧ i = assembleInstr hd p := by
  cases ws with
  | nil => cases h
  | cons w p =>
    rw [decode_cons] at h
    split at h
    · cases h
    · next hd hok =>
      split at h
      · cases h
      · next arrived =>
        cases h
        exact ⟨hd, p, by rw [decodeHeader_eq_ok.1 hok], Nat.le_of_not_lt arrived, rfl⟩

@[simp] theorem headerOf_assembleInstr (hd : Header) (p : List Word) :
    headerOf (assembleInstr hd p) = hd := by
  cases hd with
  | beginSample a b => cases a <;> rfl
  | _ => rfl

theorem assembleInstr_wf (hd : Header) (p : List Word) : (assembleInstr hd p).wf = true := by
  cases hd with
  | beginSample a b =>
    cases a <;> simp [assembleInstr, Instr.wf, bytesOfWords_length, storedIvLen]
  | _ => rfl

/-- The payload of a command assembled from words is those words: none has a bit that is dropped. -/
theorem payloadOf_assembleInstr {hd : Header} {p : List Word} (h : npay hd ≤ p.length) :
    payloadOf (assembleInstr hd p) = p.take (npay hd) := by
  have four : ∀ {q : List Word}, 4 ≤ q.length →
      [q.getD 0 0, q.getD 1 0, q.getD 2 0, q.getD 3 0] = q.take 4 := fun {q} hq =>
    match q, hq with
    | _ :: _ :: _ :: _ :: _, _ => rfl
  cases hd with
  | ldkid => exact (wordsOfBlock_blockOfWords ..).trans (four h)
  | ldkey => exact (wordsOfBlock_blockOfWords ..).trans (four h)
  | beginSample a b =>
    cases a with
    | false =>
      match p, h with
      | _ :: _ :: _ :: _, _ => exact congrArg _ (wordsOfBytes_bytesOfWords _)
    | true =>
      match p, h with
      | _ :: _ :: _ :: _ :: _ :: _, _ => exact congrArg _ (wordsOfBytes_bytesOfWords _)
  | sub c =>
    match p, h with
    | _ :: _, _ => rfl
  | _ => rfl

/-- Settles O2: the words are a header word and a payload, which the assembled command encodes
to. -/
theorem encodeOfDecode : Obligations.EncodeOfDecode := by
  intro ws i h
  obtain ⟨hd, p, rfl, arrived, rfl⟩ := decode_eq_ok h
  refine ⟨assembleInstr_wf hd p, ?_⟩
  rw [encode_eq, words_eq, headerOf_assembleInstr, payloadOf_assembleInstr arrived, Nat.add_comm,
    List.take_succ_cons]

/-! ### The opcode map (R95) -/

/-- The row of the opcode map for a header (R95). -/
def rowOf : Header → OpcodeRow
  | .nop => ⟨"NOP", 0x00000000, 0xFFFFFFFF⟩
  | .ldkid => ⟨"LDKID", 0x10000000, 0xFFFFFFFF⟩
  | .ldkey => ⟨"LDKEY", 0x20000000, 0xFFFFFFFF⟩
  | .cfg _ _ _ => ⟨"CFG", 0x30000000, 0xFCFF0000⟩
  | .beginSample _ _ => ⟨"BEGIN", 0x40000000, 0xFFFFFFFC⟩
  | .sub _ => ⟨"SUB", 0x50000000, 0xFFFF0000⟩
  | .endSample => ⟨"END", 0x60000000, 0xFFFFFFFF⟩
  | .fin => ⟨"FIN", 0x70000000, 0xFFFFFFFF⟩

theorem rowOf_mem (hd : Header) : rowOf hd ∈ opcodeMap := by
  cases hd <;> simp [rowOf, opcodeMap]

theorem rowOf_mnemonic (hd : Header) : (rowOf hd).mnemonic = headerMnemonic hd := by
  cases hd <;> rfl

/-- No mnemonic has two rows. -/
theorem row_eq_of_mnemonic_eq :
    ∀ r ∈ opcodeMap, ∀ r' ∈ opcodeMap, r.mnemonic = r'.mnemonic → r = r' := by
  decide

/-- A header word selects the row of its header. -/
theorem headerWord_selects (hd : Header) :
    headerWord hd &&& (rowOf hd).mask = (rowOf hd).pattern := by
  cases hd with
  | cfg n c k =>
    have mask : (0xFCFF0000 : Word) = (0xF : BitVec 4) ++ (0x3 : BitVec 2) ++ (0 : BitVec 2) ++
      (0xFF : BitVec 8) ++ (0 : BitVec 8) ++ (0 : BitVec 8) := by decide
    rw [rowOf, mask, headerWord, BitVec.and_append, BitVec.and_append, BitVec.and_append,
      BitVec.and_append, BitVec.and_append]
    simp only [BitVec.ofNat_eq_ofNat, BitVec.and_zero]
    rfl
  | beginSample a b => cases a <;> cases b <;> decide
  | sub c =>
    have mask : (0xFFFF0000 : Word) =
      (0xF : BitVec 4) ++ (0xFFF : BitVec 12) ++ (0 : BitVec 16) := by decide
    rw [rowOf, mask, headerWord, BitVec.and_append, BitVec.and_append]
    simp only [BitVec.ofNat_eq_ofNat, BitVec.and_zero]
    rfl
  | _ => decide

/-- A field the mask covers is fixed by the pattern. -/
theorem extract_of_selects {h m p : Word} (hs : h &&& m = p) (start len : Nat)
    (covered : m.extractLsb' start len = BitVec.allOnes len) :
    h.extractLsb' start len = p.extractLsb' start len := by
  rw [← hs, BitVec.extractLsb'_and, covered, BitVec.and_allOnes]

/-- A word that selects a row decodes, to a header of that row. -/
theorem decodeHeader_of_selects {h : Word} {r : OpcodeRow} (hr : r ∈ opcodeMap)
    (hs : h &&& r.mask = r.pattern) : ∃ hd, decodeHeader h = .ok hd ∧ rowOf hd = r := by
  have exact_row {p : Word} (hp : h &&& 0xFFFFFFFF = p) : h = p :=
    (BitVec.and_allOnes (x := h)).symm.trans hp
  simp only [opcodeMap, List.mem_cons, List.not_mem_nil, or_false] at hr
  obtain rfl | rfl | rfl | rfl | rfl | rfl | rfl | rfl := hr
  · exact ⟨.nop, exact_row hs ▸ rfl, rfl⟩
  · exact ⟨.ldkid, exact_row hs ▸ rfl, rfl⟩
  · exact ⟨.ldkey, exact_row hs ▸ rfl, rfl⟩
  · have hop := extract_of_selects hs 28 4 (by decide)
    have zero2 := extract_of_selects hs 26 2 (by decide)
    have zero8 := extract_of_selects hs 16 8 (by decide)
    refine ⟨_, (decodeHeader_cfg hop).trans (whenReservedZero_eq_ok.2 ⟨?_, rfl⟩), rfl⟩
    rw [zero2, zero8]
    rfl
  · have hop := extract_of_selects hs 28 4 (by decide)
    have zero := extract_of_selects hs 2 26 (by decide)
    refine ⟨_, (decodeHeader_beginSample hop).trans (whenReservedZero_eq_ok.2 ⟨?_, rfl⟩), rfl⟩
    rw [zero]
    rfl
  · have hop := extract_of_selects hs 28 4 (by decide)
    have zero := extract_of_selects hs 16 12 (by decide)
    refine ⟨_, (decodeHeader_sub hop).trans (whenReservedZero_eq_ok.2 ⟨?_, rfl⟩), rfl⟩
    rw [zero]
    rfl
  · exact ⟨.endSample, exact_row hs ▸ rfl, rfl⟩
  · exact ⟨.fin, exact_row hs ▸ rfl, rfl⟩

/-- A decoded header word selects exactly the row of its header. -/
theorem selects_iff_of_decodeHeader {h : Word} {hd : Header} (hok : decodeHeader h = .ok hd)
    {r : OpcodeRow} (hr : r ∈ opcodeMap) :
    h &&& r.mask = r.pattern ↔ r.mnemonic = headerMnemonic hd := by
  constructor
  · intro hs
    obtain ⟨hd', hok', rfl⟩ := decodeHeader_of_selects hr hs
    rw [rowOf_mnemonic, Except.ok.inj (hok'.symm.trans hok)]
  · intro hm
    rw [← rowOf_mnemonic] at hm
    rw [row_eq_of_mnemonic_eq r hr _ (rowOf_mem hd) hm, decodeHeader_eq_ok.1 hok]
    exact headerWord_selects hd

/-- A word is rejected exactly when it selects no row. -/
theorem decodeHeader_error_iff (h : Word) :
    (∃ e, decodeHeader h = .error e) ↔ ∀ r ∈ opcodeMap, h &&& r.mask ≠ r.pattern := by
  constructor
  · rintro ⟨e, he⟩ r hr hs
    obtain ⟨hd, hok, -⟩ := decodeHeader_of_selects hr hs
    rw [he] at hok
    cases hok
  · intro none_selects
    cases hok : decodeHeader h with
    | error e => exact ⟨e, rfl⟩
    | ok hd =>
      rw [decodeHeader_eq_ok.1 hok] at none_selects
      exact absurd (headerWord_selects hd) (none_selects _ (rowOf_mem hd))

/-- Settles O3: the row of a decoded header, and no row for a rejected word. -/
theorem headerDecodeAgreesWithOpcodeMap : Obligations.HeaderDecodeAgreesWithOpcodeMap :=
  fun h => ⟨fun _ hok _ hr => selects_iff_of_decodeHeader hok hr, decodeHeader_error_iff h⟩

/-! ### Header words as sums (R101) -/

theorem headerWord_cfg_toNat (n : SchemeName) (c k : Byte) :
    (headerWord (.cfg n c k)).toNat =
      0x30000000 + (schemeNameBits n).toNat * 2 ^ 24 + c.toNat * 2 ^ 8 + k.toNat := by
  simp only [headerWord, toNat_append_add, BitVec.ofNat_eq_ofNat, BitVec.toNat_ofNat, Nat.reducePow,
    Nat.reduceMod, Nat.reduceMul]
  omega

theorem headerWord_beginSample_toNat (a b : Bool) :
    (headerWord (.beginSample a b)).toNat = 0x40000000 + a.toNat * 2 + b.toNat := by
  cases a <;> cases b <;> rfl

theorem headerWord_sub_toNat (c : BitVec 16) :
    (headerWord (.sub c)).toNat = 0x50000000 + c.toNat := by
  simp only [headerWord, toNat_append_add, BitVec.ofNat_eq_ofNat, BitVec.toNat_ofNat, Nat.reducePow,
    Nat.reduceMod, Nat.reduceMul]

/-- A word written as the number it stands for. -/
theorem word_eq_ofNat {w : Word} {n : Nat} (h : w.toNat = n) : w = BitVec.ofNat 32 n := by
  rw [← h, BitVec.ofNat_toNat, BitVec.setWidth_eq]

/-- Settles O5: the sums are the numbers of the header words. -/
theorem headerWordFormulas : Obligations.HeaderWordFormulas := by
  refine ⟨rfl, rfl, rfl, fun _ => rfl, fun _ => rfl, fun n c k => ?_, fun a b l v => ?_,
    fun c e => ?_⟩
  · rw [← word_eq_ofNat (headerWord_cfg_toNat n c k)]
    rfl
  · rw [← word_eq_ofNat (headerWord_beginSample_toNat a b)]
    rfl
  · rw [← word_eq_ofNat (headerWord_sub_toNat c)]
    rfl

/-- Settles O6: each listed command is well formed, so its encoding decodes to it. -/
theorem listedWordsDecode : Obligations.ListedWordsDecode :=
  ⟨decodeOfEncode .nop [] rfl,
    decodeOfEncode (.ldkid ⟨⟨0x00, 0x11, 0x22, 0x33⟩, ⟨0x44, 0x55, 0x66, 0x77⟩,
      ⟨0x88, 0x99, 0xaa, 0xbb⟩, ⟨0xcc, 0xdd, 0xee, 0xff⟩⟩) [] rfl,
    decodeOfEncode (.cfg .cbcs 1 9) [] rfl,
    decodeOfEncode (.beginSample false true 58 [0, 1, 2, 3, 4, 5, 6, 7]) [] rfl,
    decodeOfEncode (.sub 65535 4294967295) [] rfl,
    decodeOfEncode .endSample [] rfl⟩

/-! ### The assembler (R101, R102) -/

open Machine

/-- A parsed IV is as long as its IV16 bit says. -/
theorem parseIv_length {cs : List Char} {a : Bool} {v : List Byte} (h : parseIv cs = some (a, v)) :
    v.length = storedIvLen a := by
  unfold parseIv at h
  split at h
  · split at h
    · next long => cases h; exact beq_iff_eq.1 long
    · split at h
      · next short => cases h; exact beq_iff_eq.1 short
      · cases h
  · cases h

theorem parseCfg_wf {ops : List (List Char)} {i : Instr} (h : parseCfg ops = some i) :
    i.wf = true := by
  unfold parseCfg at h
  repeat' split at h
  all_goals cases h
  all_goals rfl

theorem parseBegin_wf {ops : List (List Char)} {i : Instr} (h : parseBegin ops = some i) :
    i.wf = true := by
  unfold parseBegin at h
  split at h
  · split at h
    · next hiv => cases h; exact beq_iff_eq.2 (parseIv_length hiv)
    · cases h
  · split at h
    · next hiv _ => cases h; exact beq_iff_eq.2 (parseIv_length hiv)
    · cases h
  · cases h

theorem parseSub_wf {ops : List (List Char)} {i : Instr} (h : parseSub ops = some i) :
    i.wf = true := by
  unfold parseSub at h
  repeat' split at h
  all_goals cases h
  rfl

/-- Every command of an accepted line has an encoding. -/
def AcceptedWf (o : Option (List Instr)) : Prop := ∀ l, o = some l → ∀ i ∈ l, i.wf = true

theorem acceptedWf_none : AcceptedWf none := nofun

theorem acceptedWf_some {l : List Instr} (h : ∀ i ∈ l, i.wf = true) : AcceptedWf (some l) := by
  rintro _ ⟨⟩
  exact h

theorem acceptedWf_single {o : Option Instr} (h : ∀ i, o = some i → i.wf = true) :
    AcceptedWf (single o) := by
  cases o with
  | none => exact acceptedWf_none
  | some i => exact acceptedWf_some (List.forall_mem_singleton.2 (h i rfl))

theorem acceptedWf_ite {c : Prop} [Decidable c] {o o' : Option (List Instr)} (h : AcceptedWf o)
    (h' : AcceptedWf o') : AcceptedWf (if c then o else o') := by
  split
  · exact h
  · exact h'

theorem acceptedWf_parseKeyed (ops : List (List Char)) {mk : Block → Instr}
    (hmk : ∀ b, (mk b).wf = true) : AcceptedWf (single (parseKeyed mk ops)) := by
  refine acceptedWf_single fun i h => ?_
  unfold parseKeyed at h
  repeat' split at h
  all_goals cases h
  exact hmk _

theorem acceptedWf_parseBare {i : Instr} (h : i.wf = true) (ops : List (List Char)) :
    AcceptedWf (parseBare i ops) := by
  unfold parseBare
  split
  · exact acceptedWf_some (List.forall_mem_singleton.2 h)
  · exact acceptedWf_none

theorem acceptedWf_parseTrack (ops : List (List Char)) : AcceptedWf (parseTrack ops) := by
  unfold parseTrack
  split
  · split
    · next cfg_ok =>
      exact acceptedWf_some (by simpa using ⟨rfl, rfl, parseCfg_wf cfg_ok⟩)
    · exact acceptedWf_none
  · exact acceptedWf_none

theorem acceptedWf_parseSample (ops : List (List Char)) : AcceptedWf (parseSample ops) := by
  unfold parseSample
  split
  · split
    · next begin_ok =>
      exact acceptedWf_some (by simpa using ⟨parseBegin_wf begin_ok, rfl⟩)
    · exact acceptedWf_none
  · exact acceptedWf_none

/-- Settles O7: one lemma for each mnemonic's parser. -/
theorem assembledCommandsAreWellFormed : Obligations.AssembledCommandsAreWellFormed := by
  intro line
  change AcceptedWf (assembleLine line)
  exact acceptedWf_ite (acceptedWf_some (List.forall_mem_nil _)) <|
    acceptedWf_ite (acceptedWf_parseBare rfl _) <|
    acceptedWf_ite (acceptedWf_parseKeyed _ fun _ => rfl) <|
    acceptedWf_ite (acceptedWf_parseKeyed _ fun _ => rfl) <|
    acceptedWf_ite (acceptedWf_single fun _ => parseCfg_wf) <|
    acceptedWf_ite (acceptedWf_single fun _ => parseBegin_wf) <|
    acceptedWf_ite (acceptedWf_single fun _ => parseSub_wf) <|
    acceptedWf_ite (acceptedWf_parseBare rfl _) <|
    acceptedWf_ite (acceptedWf_parseBare rfl _) <|
    acceptedWf_ite (acceptedWf_parseTrack _) <|
    acceptedWf_ite (acceptedWf_parseKeyed _ fun _ => rfl) <|
    acceptedWf_ite (acceptedWf_parseSample _) acceptedWf_none

end Sys2Proof
end

section
/-! PROOFS. The step and its outcomes (41_sample_control.md R140, 60_exceptions.md): which command
runs, and where the step faults, holds or stands still. -/

namespace Sys2Proof.Machine

/-! ### The outcome of every command in one form (R140 steps 1 and 5 to 7) -/

/-- A command's own fault checks, in the order of its rule. -/
def checksOf (i : Instr) (s : State) : List Check :=
  match i with
  | .beginSample _ sub slen _ => beginChecks sub slen s
  | .sub clear enc => subChecks clear enc s
  | .endSample => endChecks s
  | _ => []

/-- The DIN bytes a command needs. -/
def needOf : Instr → Nat
  | .beginSample _ sub slen _ => beginNeed sub slen
  | .sub clear enc => clear.toNat + enc.toNat
  | _ => 0

theorem instrOutcome_eq (i : Instr) (s : State) :
    instrOutcome i s = judge s (phaseLegal i s) (checksOf i s) (needOf i) := by
  cases i <;> rfl

theorem instrOutcome_ok {i : Instr} {s : State} :
    instrOutcome i s = .ok ↔
      isHalted s = false ∧ phaseLegal i s = true ∧ firstFailing (checksOf i s) = none ∧
        (needOf i = 0 ∨ s.dip + needOf i ≤ s.din.length) := by
  rw [instrOutcome_eq, judge_ok]

theorem instrOutcome_fault {i : Instr} {s : State} {f : FaultKind} :
    instrOutcome i s = .fault f ↔
      isHalted s = false ∧ (phaseLegal i s = false ∧ f = .illegalCommand ∨
        phaseLegal i s = true ∧ firstFailing (checksOf i s) = some f) := by
  rw [instrOutcome_eq, judge_fault]

theorem instrOutcome_holdDin {i : Instr} {s : State} :
    instrOutcome i s = .holdDin ↔
      isHalted s = false ∧ phaseLegal i s = true ∧ firstFailing (checksOf i s) = none ∧
        needOf i ≠ 0 ∧ s.din.length < s.dip + needOf i := by
  rw [instrOutcome_eq, judge_holdDin]

/-! ### Fetching and running (R97, R140) -/

/-- A decoded command runs. -/
theorem step_of_fetch {s : State} {i : Instr} (h : fetch s = .ok i) : step s = exec i s := by
  unfold step; rw [h]

theorem settle_of_waits {o : StepOutcome} (h : o.waits = true) (s e : State) :
    settle o s e = s := by
  cases o with
  | ok => cases h
  | fault f => cases h
  | _ => rfl

/-- A step whose outcome waits changes nothing (R252, R258). -/
theorem step_of_waits {s : State} (h : (stepOutcome s).waits = true) : step s = .next s := by
  rw [step_eq, settle_of_waits h]

/-- A command whose outcome waits changes nothing. -/
theorem exec_of_waits {i : Instr} {s : State} (h : (instrOutcome i s).waits = true) :
    exec i s = .next s := by
  rw [exec_eq, settle_of_waits h]

/-- Settles O8. -/
theorem stepRunsDecodedCommand : Obligations.StepRunsDecodedCommand := fun _ _ h => step_of_fetch h

/-- Settles O9: the step is an outcome settled on an effect, which is always a next state. -/
theorem everyStepHasNextState : Obligations.EveryStepHasNextState := fun s => ⟨_, step_eq s⟩

/-- Settles O10: the outcome is halted, and a halted outcome waits. -/
theorem haltedEngineStandsStill : Obligations.HaltedEngineStandsStill := by
  intro s i h
  have halted : isHalted s = true := (isHalted_eq_true s).2 h
  have outcome := stepOutcome_of_isHalted halted
  exact ⟨outcome, step_of_waits (by rw [outcome]; rfl),
    exec_of_waits (by rw [instrOutcome_of_isHalted halted]; rfl)⟩

/-! ### No command to run (R140 steps 2 to 4) -/

/-- A header word is never incomplete in itself: it is decoded or rejected at once (R96). -/
theorem decodeHeader_ne_incomplete (h : Word) : decodeHeader h ≠ .error .incomplete := by
  have reserved (z : Bool) (op : BitVec 4) (hd : Header) :
      whenReservedZero z op hd ≠ .error .incomplete := by
    cases z <;> simp [whenReservedZero]
  unfold decodeHeader
  dsimp only
  split
  case h_9 => simp
  all_goals exact reserved _ _ _

theorem rejectOutcome_illegal {r : Reject} (hr : r ≠ .incomplete) {s : State}
    (hs : isHalted s = false) : rejectOutcome r s = .fault .illegalCommand := by
  cases r with
  | incomplete => exact absurd rfl hr
  | reservedOpcode op => simp [rejectOutcome, hs]
  | reservedBits op => simp [rejectOutcome, hs]

/-- Settles O11: the word is rejected by name, not as incomplete, so the fault is taken at once. -/
theorem unlistedHeaderRaisesIllegalCommand : Obligations.UnlistedHeaderRaisesIllegalCommand := by
  intro s h p phase pending unlisted
  obtain ⟨r, hr⟩ := (decodeHeader_error_iff h).2 unlisted
  have fetched : fetch s = .error r := by
    rw [fetch, pendingWords, pending, decode_cons, hr]
  have named : r ≠ .incomplete := by
    rintro rfl
    exact decodeHeader_ne_incomplete h hr
  exact step_of_fault ((stepOutcome_of_error fetched).trans
    (rejectOutcome_illegal named ((isHalted_eq_false s).2 phase)))

/-- The words at CPC decode to nothing yet where one is missing (R97). -/
theorem fetch_incomplete {s : State} (h : s.cmd.drop s.cpc = [] ∨
    ∃ w hd p, s.cmd.drop s.cpc = w :: p ∧ decodeHeader w = .ok hd ∧ p.length < npay hd) :
    fetch s = .error .incomplete := by
  rw [fetch, pendingWords]
  obtain pending | ⟨w, hd, p, pending, hok, short⟩ := h
  · rw [pending, decode_nil]
  · rw [pending, decode_cons, hok]
    exact if_pos short

/-- Settles O12: what is incomplete holds, and a hold waits. -/
theorem missingWordsHold : Obligations.MissingWordsHold := by
  intro s phase missing
  have outcome : stepOutcome s = .holdCmd := by
    rw [stepOutcome_of_error (fetch_incomplete missing)]
    simp [rejectOutcome, (isHalted_eq_false s).2 phase]
  exact ⟨outcome, step_of_waits (by rw [outcome]; rfl)⟩

/-! ### Faults and the data (R75) -/

/-- Whether a command faults is decided without DIN and DIP. -/
theorem instrOutcome_fault_withData {i : Instr} {s : State} {f : FaultKind}
    (h : instrOutcome i s = .fault f) (bs : List Byte) (n : Nat) :
    instrOutcome i { s with din := bs, dip := n } = .fault f := by
  have legal : phaseLegal i { s with din := bs, dip := n } = phaseLegal i s := by cases i <;> rfl
  have checks : checksOf i { s with din := bs, dip := n } = checksOf i s := by cases i <;> rfl
  rw [instrOutcome_fault] at h ⊢
  rw [legal, checks]
  exact h

/-- Settles O14: the same command or the same rejection is found, and neither looks at the data. -/
theorem faultsDoNotWaitForData : Obligations.FaultsDoNotWaitForData := by
  intro s f bs n h
  have fetched : fetch { s with din := bs, dip := n } = fetch s := rfl
  cases hf : fetch s with
  | ok i =>
    rw [stepOutcome_of_ok hf] at h
    rw [stepOutcome_of_ok (fetched.trans hf)]
    exact instrOutcome_fault_withData h bs n
  | error r =>
    rw [stepOutcome_of_error hf] at h
    rw [stepOutcome_of_error (fetched.trans hf)]
    exact h

/-! ### Holds (R258) -/

theorem rejectOutcome_ne_holdDin (r : Reject) (s : State) : rejectOutcome r s ≠ .holdDin := by
  unfold rejectOutcome
  cases isHalted s <;> cases r <;> simp

/-- The commands that need data are BEGIN without a subsample list and SUB. -/
theorem data_command_of_needOf_ne_zero {i : Instr} (h : needOf i ≠ 0) :
    (∃ a l v, i = .beginSample a false l v) ∨ ∃ c e, i = .sub c e := by
  cases i with
  | beginSample a b l v =>
    cases b with
    | false => exact .inl ⟨a, l, v, rfl⟩
    | true => exact absurd rfl h
  | sub c e => exact .inr ⟨c, e, rfl⟩
  | _ => exact absurd rfl h

/-- Settles O15: a hold on DIN comes from a command that needs more data than has arrived. -/
theorem dataHoldOnlyWhileBytesAreMissing : Obligations.DataHoldOnlyWhileBytesAreMissing := by
  intro s h
  refine ⟨step_of_waits (by rw [h]; rfl), ?_⟩
  cases hf : fetch s with
  | error r => exact absurd ((stepOutcome_of_error hf).symm.trans h) (rejectOutcome_ne_holdDin r s)
  | ok i =>
    obtain ⟨-, -, -, needs, missing⟩ := instrOutcome_holdDin.1 ((stepOutcome_of_ok hf).symm.trans h)
    obtain ⟨a, l, v, rfl⟩ | ⟨c, e, rfl⟩ := data_command_of_needOf_ne_zero needs
    · exact .inl ⟨a, l, v, hf, missing⟩
    · exact .inr ⟨c, e, hf, missing⟩

end Sys2Proof.Machine
end

section
/-! PROOFS. The commands (40_key_config.md, 41_sample_control.md): where each completes, traps or
waits, and what it leaves. -/

namespace Sys2Proof.Machine

/-! ### Phases and checks (R98, R140 to R143) -/

theorem isHalted_of_idle {s : State} (h : s.phase = .idle) : isHalted s = false :=
  (isHalted_eq_false s).2 (.inl h)

theorem isHalted_of_sample {s : State} (h : s.phase = .sample) : isHalted s = false :=
  (isHalted_eq_false s).2 (.inr h)

/-- The encrypted-range length check passes for whole blocks and for CENC (R201, R242). -/
theorem unalignedRange_eq_false {s : State} {n : Nat} :
    unalignedRange s n = false ↔ s.scheme = .cenc ∨ n % 16 = 0 := by
  cases h : s.scheme <;> simp [unalignedRange, blockAligned, Config.blockLen, h]

theorem unalignedRange_eq_true {s : State} {n : Nat} :
    unalignedRange s n = true ↔ s.scheme = .cbcs ∧ n % 16 ≠ 0 := by
  cases h : s.scheme <;> simp [unalignedRange, blockAligned, Config.blockLen, h]

/-- BEGIN's checks pass with a key and, without a subsample list, a range of legal length (R141). -/
theorem beginChecks_pass {b : Bool} {l : Word} {s : State} :
    firstFailing (beginChecks b l s) = none ↔
      s.keyv = true ∧ (b = true ∨ s.scheme = .cenc ∨ l.toNat % 16 = 0) := by
  rw [← unalignedRange_eq_false]
  cases key : s.keyv
  · simp [beginChecks, key]
  · cases b <;> simp [beginChecks, key]

/-- SUB's checks pass for a pair that fits the sample and a range of legal length (R142). -/
theorem subChecks_pass {c : BitVec 16} {e : Word} {s : State} :
    firstFailing (subChecks c e s) = none ↔
      pairEnd c e s ≤ s.slen.toNat ∧ (s.scheme = .cenc ∨ e.toNat % 16 = 0) := by
  rw [← unalignedRange_eq_false, ← Nat.not_lt]
  by_cases overruns : s.slen.toNat < pairEnd c e s
  · simp [subChecks, overruns]
  · simp [subChecks, overruns]

theorem endChecks_pass {s : State} : firstFailing (endChecks s) = none ↔ s.spos = s.slen := by
  simp [endChecks]

/-! ### Where each command completes -/

theorem instrOutcome_nop_ok {s : State} (h : s.phase = .idle ∨ s.phase = .sample) :
    instrOutcome .nop s = .ok :=
  instrOutcome_ok.2 ⟨(isHalted_eq_false s).2 h, rfl, rfl, .inl rfl⟩

/-- A command that is legal in IDLE, has no check and needs no data completes there (R121 to R123,
R144). -/
theorem instrOutcome_ok_of_idle {i : Instr} {s : State} (legal : phaseLegal i s = legalInIdle s)
    (checks : checksOf i s = []) (need : needOf i = 0) (h : s.phase = .idle) :
    instrOutcome i s = .ok :=
  instrOutcome_ok.2
    ⟨isHalted_of_idle h, legal.trans ((legalInIdle_iff s).2 h), by rw [checks]; rfl, .inl need⟩

theorem instrOutcome_begin_ok {a b : Bool} {l : Word} {v : List Byte} {s : State} :
    instrOutcome (.beginSample a b l v) s = .ok ↔
      s.phase = .idle ∧ s.keyv = true ∧ (b = true ∨ s.scheme = .cenc ∨ l.toNat % 16 = 0) ∧
        (beginNeed b l = 0 ∨ s.dip + beginNeed b l ≤ s.din.length) := by
  rw [instrOutcome_ok]
  constructor
  · rintro ⟨-, legal, pass, data⟩
    obtain ⟨key, aligned⟩ := beginChecks_pass.1 pass
    exact ⟨(legalInIdle_iff s).1 legal, key, aligned, data⟩
  · rintro ⟨idle, key, aligned, data⟩
    exact ⟨isHalted_of_idle idle, (legalInIdle_iff s).2 idle, beginChecks_pass.2 ⟨key, aligned⟩,
      data⟩

theorem phaseLegal_sub_iff {c : BitVec 16} {e : Word} {s : State} :
    phaseLegal (.sub c e) s = true ↔ s.phase = .sample ∧ s.usesub = true := by
  rw [phaseLegal, Bool.and_eq_true, legalInSample_iff]

theorem instrOutcome_sub_ok {c : BitVec 16} {e : Word} {s : State} :
    instrOutcome (.sub c e) s = .ok ↔
      s.phase = .sample ∧ s.usesub = true ∧ pairEnd c e s ≤ s.slen.toNat ∧
        (s.scheme = .cenc ∨ e.toNat % 16 = 0) ∧
        (c.toNat + e.toNat = 0 ∨ s.dip + (c.toNat + e.toNat) ≤ s.din.length) := by
  rw [instrOutcome_ok]
  constructor
  · rintro ⟨-, legal, pass, data⟩
    obtain ⟨sample, list⟩ := phaseLegal_sub_iff.1 legal
    obtain ⟨fits, aligned⟩ := subChecks_pass.1 pass
    exact ⟨sample, list, fits, aligned, data⟩
  · rintro ⟨sample, list, fits, aligned, data⟩
    exact ⟨isHalted_of_sample sample, phaseLegal_sub_iff.2 ⟨sample, list⟩,
      subChecks_pass.2 ⟨fits, aligned⟩, data⟩

theorem instrOutcome_end_ok {s : State} :
    instrOutcome .endSample s = .ok ↔ s.phase = .sample ∧ s.spos = s.slen := by
  rw [instrOutcome_ok]
  constructor
  · rintro ⟨-, legal, pass, -⟩
    exact ⟨(legalInSample_iff s).1 legal, endChecks_pass.1 pass⟩
  · rintro ⟨sample, complete⟩
    exact ⟨isHalted_of_sample sample, (legalInSample_iff s).2 sample, endChecks_pass.2 complete,
      .inl rfl⟩

/-! ### Where BEGIN, SUB and END trap and wait (R141 to R143, R248) -/

/-- A legal command takes the fault of its first failing check. -/
theorem instrOutcome_of_check {i : Instr} {s : State} {f : FaultKind} (running : isHalted s = false)
    (legal : phaseLegal i s = true) (first : firstFailing (checksOf i s) = some f) :
    instrOutcome i s = .fault f :=
  instrOutcome_fault.2 ⟨running, .inr ⟨legal, first⟩⟩

/-- A legal command whose checks pass waits for its data. -/
theorem exec_of_missing_data {i : Instr} {s : State} (running : isHalted s = false)
    (legal : phaseLegal i s = true) (pass : firstFailing (checksOf i s) = none)
    (needs : needOf i ≠ 0) (missing : s.din.length < s.dip + needOf i) : exec i s = .next s :=
  exec_of_waits (by rw [instrOutcome_holdDin.2 ⟨running, legal, pass, needs, missing⟩]; rfl)

theorem firstFailing_beginChecks_missingKey {b : Bool} {l : Word} {s : State}
    (no_key : s.keyv = false) : firstFailing (beginChecks b l s) = some .missingKey := by
  simp [beginChecks, no_key]

theorem firstFailing_beginChecks_unaligned {l : Word} {s : State} (key : s.keyv = true)
    (cbcs : s.scheme = .cbcs) (unaligned : l.toNat % 16 ≠ 0) :
    firstFailing (beginChecks false l s) = some .unalignedCipherBlock := by
  simp [beginChecks, key, unalignedRange_eq_true.2 ⟨cbcs, unaligned⟩]

theorem firstFailing_subChecks_overrun {c : BitVec 16} {e : Word} {s : State}
    (overruns : s.slen.toNat < pairEnd c e s) :
    firstFailing (subChecks c e s) = some .malformedAuxInfo := by
  simp [subChecks, overruns]

theorem firstFailing_subChecks_unaligned {c : BitVec 16} {e : Word} {s : State}
    (fits : pairEnd c e s ≤ s.slen.toNat) (cbcs : s.scheme = .cbcs) (unaligned : e.toNat % 16 ≠ 0) :
    firstFailing (subChecks c e s) = some .unalignedCipherBlock := by
  simp [subChecks, Nat.not_lt.2 fits, unalignedRange_eq_true.2 ⟨cbcs, unaligned⟩]

theorem firstFailing_endChecks_short {s : State} (short : s.spos ≠ s.slen) :
    firstFailing (endChecks s) = some .malformedAuxInfo := by
  simp [endChecks, short]

theorem instrOutcome_begin_unaligned {s : State} (a : Bool) {l : Word} (v : List Byte)
    (idle : s.phase = .idle) (key : s.keyv = true) (cbcs : s.scheme = .cbcs)
    (unaligned : l.toNat % 16 ≠ 0) :
    instrOutcome (.beginSample a false l v) s = .fault .unalignedCipherBlock :=
  instrOutcome_of_check (i := .beginSample a false l v) (isHalted_of_idle idle)
    ((legalInIdle_iff s).2 idle) (firstFailing_beginChecks_unaligned key cbcs unaligned)

/-- Settles O17: the first failing check, or a hold where none fails. -/
theorem beginTrapsAndWaits : Obligations.BeginTrapsAndWaits := by
  intro s a b l v idle
  have running := isHalted_of_idle idle
  have legal : phaseLegal (.beginSample a b l v) s = true := (legalInIdle_iff s).2 idle
  refine ⟨fun no_key => ?_, fun key no_list cbcs unaligned => ?_,
    fun key no_list aligned needs missing => ?_⟩
  · have trap : instrOutcome (.beginSample a b l v) s = .fault .missingKey :=
      instrOutcome_of_check running legal (firstFailing_beginChecks_missingKey no_key)
    exact exec_of_fault trap
  · subst no_list
    exact exec_of_fault (instrOutcome_begin_unaligned a v idle key cbcs unaligned)
  · subst no_list
    have pass : firstFailing (checksOf (.beginSample a false l v) s) = none :=
      beginChecks_pass.2 ⟨key, .inr aligned⟩
    have needed : needOf (.beginSample a false l v) ≠ 0 := Nat.ne_of_gt needs
    exact exec_of_missing_data running legal pass needed missing

/-- Settles O18: the first failing check, or a hold where none fails. -/
theorem subTrapsAndWaits : Obligations.SubTrapsAndWaits := by
  intro s c e sample list
  have running := isHalted_of_sample sample
  have legal : phaseLegal (.sub c e) s = true := phaseLegal_sub_iff.2 ⟨sample, list⟩
  refine ⟨fun overruns => ?_, fun fits cbcs unaligned => ?_, fun fits aligned needs missing => ?_⟩
  · have trap : instrOutcome (.sub c e) s = .fault .malformedAuxInfo :=
      instrOutcome_of_check running legal (firstFailing_subChecks_overrun overruns)
    exact exec_of_fault trap
  · have trap : instrOutcome (.sub c e) s = .fault .unalignedCipherBlock :=
      instrOutcome_of_check running legal (firstFailing_subChecks_unaligned fits cbcs unaligned)
    exact exec_of_fault trap
  · have pass : firstFailing (checksOf (.sub c e) s) = none := subChecks_pass.2 ⟨fits, aligned⟩
    have needed : needOf (.sub c e) ≠ 0 := Nat.ne_of_gt needs
    exact exec_of_missing_data running legal pass needed missing

/-- Settles O19. -/
theorem endOfShortSampleFaults : Obligations.EndOfShortSampleFaults := by
  intro s sample short
  have trap : instrOutcome .endSample s = .fault .malformedAuxInfo :=
    instrOutcome_of_check (isHalted_of_sample sample) ((legalInSample_iff s).2 sample)
      (firstFailing_endChecks_short short)
  exact exec_of_fault trap

/-! ### What each command does where it completes -/

/-- Settles O20. -/
theorem nopOnlyAdvances : Obligations.NopOnlyAdvances :=
  fun _ h => exec_of_ok (instrOutcome_nop_ok h)

/-- Settles O21. -/
theorem ldkidLoadsKeyIdAndEmptiesSlot : Obligations.LdkidLoadsKeyIdAndEmptiesSlot :=
  fun _ _ h => exec_of_ok (instrOutcome_ok_of_idle rfl rfl rfl h)

/-- Settles O22. -/
theorem ldkeyLoadsKey : Obligations.LdkeyLoadsKey :=
  fun _ _ h => exec_of_ok (instrOutcome_ok_of_idle rfl rfl rfl h)

/-- Settles O23: CFG completes in IDLE with any operands, and its effect resolves the name. -/
theorem cfgStoresSchemeAndCounts : Obligations.CfgStoresSchemeAndCounts := by
  intro s c k idle
  have completes (n : SchemeName) :
      exec (.cfg n c k) s = .next (instrEffect (.cfg n c k) s) :=
    exec_of_ok (instrOutcome_ok_of_idle rfl rfl rfl idle)
  exact ⟨completes .cenc, completes .cbcs, completes .cens, completes .cbc1⟩

/-- Settles O24: with a subsample list BEGIN needs no data. -/
theorem beginWithListOpensSample : Obligations.BeginWithListOpensSample :=
  fun _ _ _ _ idle key => exec_of_ok (instrOutcome_begin_ok.2 ⟨idle, key, .inl rfl, .inl rfl⟩)

/-- Settles O29: the 32-bit increment is the increment modulo 2^32. -/
theorem endClosesCompleteSample : Obligations.EndClosesCompleteSample := by
  intro s sample complete
  have increment : BitVec.ofNat 32 ((s.sidx.toNat + 1) % 2 ^ 32) = s.sidx + 1 := by
    apply BitVec.eq_of_toNat_eq
    simp
  rw [increment]
  exact exec_of_ok (instrOutcome_end_ok.2 ⟨sample, complete⟩)

/-- Settles O30. -/
theorem finEndsRun : Obligations.FinEndsRun :=
  fun s h => ⟨finEffect s, exec_of_ok (instrOutcome_ok_of_idle rfl rfl rfl h), rfl, rfl⟩

/-! ### A sample without a subsample list is one whole range (R149) -/

/-- Where BEGIN completes without a subsample list, it completes with one. -/
theorem instrOutcome_begin_list_ok {a : Bool} {l : Word} {v : List Byte} {s : State}
    (h : instrOutcome (.beginSample a false l v) s = .ok) :
    instrOutcome (.beginSample a true l v) s = .ok := by
  obtain ⟨idle, key, -, -⟩ := instrOutcome_begin_ok.1 h
  exact instrOutcome_begin_ok.2 ⟨idle, key, .inl rfl, .inl rfl⟩

/-- The sample BEGIN has opened with a list takes the whole sample as its one pair. -/
theorem instrOutcome_whole_sub_ok {a : Bool} {l : Word} {v : List Byte} {s : State}
    (h : instrOutcome (.beginSample a false l v) s = .ok) :
    instrOutcome (.sub 0 l) (beginEffect a true l v s) = .ok := by
  obtain ⟨-, -, aligned, data⟩ := instrOutcome_begin_ok.1 h
  refine instrOutcome_sub_ok.2 ⟨rfl, rfl, ?_, ?_, ?_⟩
  · simp [pairEnd, beginEffect]
  · simpa [beginEffect] using aligned
  · simpa [beginEffect, beginNeed] using data

theorem dinBytes_zero (s : State) : dinBytes 0 s = [] := List.take_zero

theorem copyClear_zero (s : State) : copyClear 0 s = s := by
  simp [copyClear, dinBytes_zero, doutWrite, consume]

/-- BEGIN with a list and then `SUB 0, SLEN` leave what BEGIN without one leaves, but for USESUB and
the second command's CPC: the range the SUB makes is the range of the opened sample. -/
theorem subEffect_beginEffect (a : Bool) (l : Word) (v : List Byte) (s : State) :
    subEffect 0 l (beginEffect a true l v s) =
      { beginEffect a false l v s with
        usesub := true, cpc := (beginEffect a false l v s).cpc + 2 } := by
  have no_clear : (0 : BitVec 16).toNat = 0 := rfl
  have bytes : rangeBytes l.toNat (beginEffect a true l v s) =
      rangeBytes l.toNat (openSample a false l v s) := rfl
  have chain : rangeChain l.toNat (beginEffect a true l v s) =
      rangeChain l.toNat (openSample a false l v s) := rfl
  have patpos : rangePatpos l.toNat (beginEffect a true l v s) =
      rangePatpos l.toNat (openSample a false l v s) := rfl
  rw [subEffect_eq, beginEffect_whole, no_clear, copyClear_zero, dinBytes_zero, bytes, chain, patpos]
  simp [pairEnd, beginEffect, advance, Instr.words]

/-- Settles O32: BEGIN with a list and the one SUB complete and leave the same; after BEGIN without a
list SUB is illegal. -/
theorem noListIsOneWholeRange : Obligations.NoListIsOneWholeRange := by
  refine fun s s0 a l v => ⟨fun ok run => ?_, instrOutcome_begin_unaligned a v⟩
  obtain rfl : beginEffect a false l v s = s0 :=
    Host.Outcome.next.inj ((exec_of_ok ok).symm.trans run)
  refine ⟨beginEffect a true l v s, exec_of_ok (instrOutcome_begin_list_ok ok), ?_, ?_⟩
  · rw [← subEffect_beginEffect]
    exact exec_of_ok (instrOutcome_whole_sub_ok ok)
  · refine (instrOutcome_illegalCommand ..).2 ⟨isHalted_of_sample (beginEffect_phase ..), ?_⟩
    simp [phaseLegal, beginEffect]

end Sys2Proof.Machine
end

section
/-! PROOFS. What every completed command does to the streams and to each register, and with it the
invariants of 10_state.md R56 and 20_memory.md R63 along every run. -/

namespace Sys2Proof.Machine

/-! ### BEGIN and SUB, field by field (R141, R142) -/

section
variable (a b : Bool) (l : Word) (v : List Byte) (c : BitVec 16) (e : Word) (s : State)

@[simp] theorem beginEffect_kid : (beginEffect a b l v s).kid = s.kid := by
  cases b <;> simp [beginEffect]
@[simp] theorem beginEffect_key : (beginEffect a b l v s).key = s.key := by
  cases b <;> simp [beginEffect]
@[simp] theorem beginEffect_fcode : (beginEffect a b l v s).fcode = s.fcode := by
  cases b <;> simp [beginEffect]
@[simp] theorem beginEffect_keyv : (beginEffect a b l v s).keyv = s.keyv := by
  cases b <;> simp [beginEffect]
@[simp] theorem beginEffect_iv16 : (beginEffect a b l v s).iv16 = a := by
  cases b <;> simp [beginEffect]
@[simp] theorem beginEffect_scheme : (beginEffect a b l v s).scheme = s.scheme := by
  cases b <;> simp [beginEffect]
@[simp] theorem beginEffect_crypt : (beginEffect a b l v s).crypt = s.crypt := by
  cases b <;> simp [beginEffect]
@[simp] theorem beginEffect_skip : (beginEffect a b l v s).skip = s.skip := by
  cases b <;> simp [beginEffect]
@[simp] theorem beginEffect_slen : (beginEffect a b l v s).slen = l := by
  cases b <;> simp [beginEffect]
@[simp] theorem beginEffect_sidx : (beginEffect a b l v s).sidx = s.sidx := by
  cases b <;> simp [beginEffect]
@[simp] theorem beginEffect_cmd : (beginEffect a b l v s).cmd = s.cmd := by
  cases b <;> simp [beginEffect]
@[simp] theorem beginEffect_din : (beginEffect a b l v s).din = s.din := by
  cases b <;> simp [beginEffect]
@[simp] theorem beginEffect_params : (beginEffect a b l v s).params = s.params := by
  cases b <;> simp [beginEffect]
/-- BEGIN with a list opens the sample at its start, without one it goes through it. -/
@[simp] theorem beginEffect_spos : (beginEffect a b l v s).spos = if b then 0 else l := by
  cases b <;> simp [beginEffect]
@[simp] theorem beginEffect_encpos : (beginEffect a b l v s).encpos = if b then 0 else l := by
  cases b <;> simp [beginEffect]
@[simp] theorem beginEffect_dip : (beginEffect a b l v s).dip = s.dip + beginNeed b l := by
  cases b <;> simp [beginEffect, beginNeed]

@[simp] theorem subEffect_kid : (subEffect c e s).kid = s.kid := by simp [subEffect]
@[simp] theorem subEffect_key : (subEffect c e s).key = s.key := by simp [subEffect]
@[simp] theorem subEffect_iv : (subEffect c e s).iv = s.iv := by simp [subEffect]
@[simp] theorem subEffect_fcode : (subEffect c e s).fcode = s.fcode := by simp [subEffect]
@[simp] theorem subEffect_keyv : (subEffect c e s).keyv = s.keyv := by simp [subEffect]
@[simp] theorem subEffect_usesub : (subEffect c e s).usesub = s.usesub := by simp [subEffect]
@[simp] theorem subEffect_iv16 : (subEffect c e s).iv16 = s.iv16 := by simp [subEffect]
@[simp] theorem subEffect_scheme : (subEffect c e s).scheme = s.scheme := by simp [subEffect]
@[simp] theorem subEffect_crypt : (subEffect c e s).crypt = s.crypt := by simp [subEffect]
@[simp] theorem subEffect_skip : (subEffect c e s).skip = s.skip := by simp [subEffect]
@[simp] theorem subEffect_slen : (subEffect c e s).slen = s.slen := by simp [subEffect]
@[simp] theorem subEffect_sidx : (subEffect c e s).sidx = s.sidx := by simp [subEffect]
@[simp] theorem subEffect_cmd : (subEffect c e s).cmd = s.cmd := by simp [subEffect]
@[simp] theorem subEffect_din : (subEffect c e s).din = s.din := by simp [subEffect]
@[simp] theorem subEffect_params : (subEffect c e s).params = s.params := by simp [subEffect]
@[simp] theorem subEffect_spos :
    (subEffect c e s).spos = BitVec.ofNat 32 (pairEnd c e s) := by simp [subEffect]
@[simp] theorem subEffect_encpos :
    (subEffect c e s).encpos = BitVec.ofNat 32 (s.encpos.toNat + e.toNat) := by simp [subEffect]
@[simp] theorem subEffect_dip : (subEffect c e s).dip = s.dip + (c.toNat + e.toNat) := by
  simp [subEffect, Nat.add_assoc]

end

/-! ### The streams (R40, R61 to R63) -/

/-- A command advances CPC by its length (R97). -/
theorem instrEffect_cpc (i : Instr) (s : State) : (instrEffect i s).cpc = s.cpc + i.words := by
  cases i with
  | beginSample a b l v => cases b <;> simp [instrEffect, beginEffect, Instr.words]
  | sub c e => simp [instrEffect, subEffect, Instr.words]
  | _ => rfl

/-- A command advances DIP by the bytes it needs (R62). -/
theorem instrEffect_dip (i : Instr) (s : State) : (instrEffect i s).dip = s.dip + needOf i := by
  cases i with
  | beginSample a b l v => exact beginEffect_dip a b l v s
  | sub c e => exact subEffect_dip c e s
  | _ => rfl

/-- The bytes a command writes. -/
def writtenBytes (i : Instr) (s : State) : List Byte :=
  match i with
  | .beginSample a false l v => rangeBytes l.toNat (openSample a false l v s)
  | .sub c e => dinBytes c.toNat s ++ rangeBytes e.toNat (copyClear c.toNat s)
  | _ => []

/-- A command writes at the tail of DOUT (R63). -/
theorem instrEffect_dout (i : Instr) (s : State) :
    (instrEffect i s).dout = s.dout ++ writtenBytes i s := by
  cases i with
  | beginSample a b l v =>
    cases b with
    | true => exact (List.append_nil s.dout).symm
    | false => rw [instrEffect, beginEffect_whole]; rfl
  | sub c e => rw [instrEffect, subEffect_eq, writtenBytes, List.append_assoc]
  | _ => exact (List.append_nil s.dout).symm

/-- A completed command writes as many bytes as it reads. -/
theorem writtenBytes_length {i : Instr} {s : State} (h : instrOutcome i s = .ok) :
    (writtenBytes i s).length = needOf i := by
  cases i with
  | beginSample a b l v =>
    cases b with
    | true => rfl
    | false =>
      obtain ⟨-, -, aligned, data⟩ := instrOutcome_begin_ok.1 h
      exact rangeBytes_length (s := openSample a false l v s) (by simpa using aligned) data
  | sub c e =>
    obtain ⟨-, -, -, aligned, data⟩ := instrOutcome_sub_ok.1 h
    have clear : (dinBytes c.toNat s).length = c.toNat := dinBytes_length (by omega)
    have enc : (rangeBytes e.toNat (copyClear c.toNat s)).length = e.toNat :=
      rangeBytes_length aligned (by rw [copyClear_dip, copyClear_din]; omega)
    rw [writtenBytes, List.length_append, clear, enc]
    rfl
  | _ => rfl

/-- Settles O58: a completed command writes `writtenBytes`, every other outcome nothing. -/
theorem outputLengthFollowsInput : Obligations.OutputLengthFollowsInput := by
  intro s t h
  obtain ⟨-, rfl⟩ | ⟨f, -, rfl⟩ | ⟨i, -, ok, step_ok, rfl⟩ := step_cases h
  · exact ⟨[], by simp⟩
  · exact ⟨[], by simp⟩
  · exact ⟨writtenBytes i s, instrEffect_dout i s, by rw [instrEffect_dip, writtenBytes_length ok],
      fun not_ok => absurd step_ok not_ok⟩

/-- A fetched command is well formed: the decoder makes no other (R92). -/
theorem wf_of_fetch {s : State} {i : Instr} (h : fetch s = .ok i) : i.wf = true :=
  (encodeOfDecode _ i h).1

/-- A fetched command stands in CMD with all its words (R97). -/
theorem words_le_of_fetch {s : State} {i : Instr} (h : fetch s = .ok i) :
    i.words ≤ s.cmd.length - s.cpc := by
  obtain ⟨hd, p, pending, arrived, rfl⟩ := decode_eq_ok h
  have length := congrArg List.length pending
  rw [pendingWords, List.length_drop, List.length_cons] at length
  rw [assembleInstr_words]
  omega

/-- Settles O56: CPC moves where a command completes, by the length of its encoding. -/
theorem commandCounterAdvancesByLength : Obligations.CommandCounterAdvancesByLength := by
  intro s t h
  refine ⟨fun i hf ho => ?_, fun not_ok => ?_⟩
  · obtain ⟨-, rfl⟩ := step_completed h hf ho
    rw [instrEffect_cpc, encode_length (wf_of_fetch hf)]
  · obtain ⟨-, rfl⟩ | ⟨f, -, rfl⟩ | ⟨i, -, -, ok, -⟩ := step_cases h
    · rfl
    · rfl
    · exact absurd ok not_ok

/-! ### Which command writes which register (R21, R26, R27, R31 to R37) -/

section
variable {i : Instr} {s : State}

theorem instrEffect_kid_ne (h : (instrEffect i s).kid ≠ s.kid) : ∃ k, i = .ldkid k := by
  cases i with
  | ldkid k => exact ⟨k, rfl⟩
  | beginSample a b l v => exact absurd (beginEffect_kid ..) h
  | sub c e => exact absurd (subEffect_kid ..) h
  | _ => exact absurd rfl h

theorem instrEffect_key_ne (h : (instrEffect i s).key ≠ s.key ∨ (instrEffect i s).keyv ≠ s.keyv) :
    (∃ k, i = .ldkid k) ∨ (∃ k, i = .ldkey k) ∨ i = .fin := by
  cases i with
  | ldkid k => exact .inl ⟨k, rfl⟩
  | ldkey k => exact .inr (.inl ⟨k, rfl⟩)
  | fin => exact .inr (.inr rfl)
  | beginSample a b l v => simp [instrEffect] at h
  | sub c e => simp [instrEffect] at h
  | _ => simp [instrEffect, nopEffect, cfgEffect, endEffect] at h

theorem instrEffect_scheme_ne (h : (instrEffect i s).scheme ≠ s.scheme ∨
    (instrEffect i s).crypt ≠ s.crypt ∨ (instrEffect i s).skip ≠ s.skip) :
    ∃ n c k, i = .cfg n c k := by
  cases i with
  | cfg n c k => exact ⟨n, c, k, rfl⟩
  | beginSample a b l v => simp [instrEffect] at h
  | sub c e => simp [instrEffect] at h
  | _ => simp [instrEffect, nopEffect, ldkidEffect, ldkeyEffect, endEffect, finEffect] at h

theorem instrEffect_iv_ne (h : (instrEffect i s).iv ≠ s.iv ∨ (instrEffect i s).iv16 ≠ s.iv16 ∨
    (instrEffect i s).usesub ≠ s.usesub ∨ (instrEffect i s).slen ≠ s.slen) :
    ∃ a b l v, i = .beginSample a b l v := by
  cases i with
  | beginSample a b l v => exact ⟨a, b, l, v, rfl⟩
  | sub c e => simp [instrEffect] at h
  | _ =>
    simp [instrEffect, nopEffect, ldkidEffect, ldkeyEffect, cfgEffect, endEffect, finEffect] at h

theorem instrEffect_walk_ne (h : (instrEffect i s).chain ≠ s.chain ∨
    (instrEffect i s).patpos ≠ s.patpos ∨ (instrEffect i s).spos ≠ s.spos ∨
    (instrEffect i s).encpos ≠ s.encpos ∨ (instrEffect i s).dip ≠ s.dip ∨
    (instrEffect i s).dout ≠ s.dout) :
    (∃ a b l v, i = .beginSample a b l v) ∨ ∃ c e, i = .sub c e := by
  cases i with
  | beginSample a b l v => exact .inl ⟨a, b, l, v, rfl⟩
  | sub c e => exact .inr ⟨c, e, rfl⟩
  | _ =>
    simp [instrEffect, nopEffect, ldkidEffect, ldkeyEffect, cfgEffect, endEffect, finEffect] at h

theorem instrEffect_sidx_ne (h : (instrEffect i s).sidx ≠ s.sidx) : i = .endSample := by
  cases i with
  | endSample => rfl
  | beginSample a b l v => exact absurd (beginEffect_sidx ..) h
  | sub c e => exact absurd (subEffect_sidx ..) h
  | _ => exact absurd rfl h

end

theorem instrEffect_fcode (i : Instr) (s : State) : (instrEffect i s).fcode = s.fcode := by
  cases i with
  | beginSample a b l v => exact beginEffect_fcode ..
  | sub c e => exact subEffect_fcode ..
  | _ => rfl

theorem instrEffect_cmd (i : Instr) (s : State) : (instrEffect i s).cmd = s.cmd := by
  cases i with
  | beginSample a b l v => exact beginEffect_cmd ..
  | sub c e => exact subEffect_cmd ..
  | _ => rfl

theorem instrEffect_din (i : Instr) (s : State) : (instrEffect i s).din = s.din := by
  cases i with
  | beginSample a b l v => exact beginEffect_din ..
  | sub c e => exact subEffect_din ..
  | _ => rfl

theorem instrEffect_params (i : Instr) (s : State) : (instrEffect i s).params = s.params := by
  cases i with
  | beginSample a b l v => exact beginEffect_params ..
  | sub c e => exact subEffect_params ..
  | _ => rfl

/-- Settles O55: a step that waits writes nothing, a fault FCODE and PHASE, and a completed command
what its effect writes. -/
theorem onlyTheirCommandsWriteRegisters : Obligations.OnlyTheirCommandsWriteRegisters := by
  intro s t h
  obtain ⟨-, rfl⟩ | ⟨f, fault, rfl⟩ | ⟨i, hf, -, -, rfl⟩ := step_cases h
  · simp
  · simp [fault]
  · rw [hf]
    simp only [Except.ok.injEq]
    exact ⟨instrEffect_kid_ne, instrEffect_key_ne, instrEffect_scheme_ne, instrEffect_iv_ne,
      instrEffect_walk_ne, instrEffect_sidx_ne, fun h => absurd (instrEffect_fcode i s) h,
      instrEffect_cmd i s, instrEffect_din i s, instrEffect_params i s⟩

end Sys2Proof.Machine
end

section
/-! PROOFS. The invariants of 10_state.md R56 with R63 and R241: after reset, after every step, and
what they give over a whole sample (41_sample_control.md R148). -/

namespace Sys2Proof.Machine

/-! ### Taking a fault keeps the invariants -/

/-- No fault has code 0 (R240). -/
theorem faultCode_ne_zero (f : FaultKind) : faultCode f ≠ 0 := by
  cases f <;> decide

theorem raise_keeps_inv {f : FaultKind} {s : State} (hf : EngineFault f) (inv : EngineInv s) :
    EngineInv (raise f s) := by
  obtain ⟨-, -, slot, ordered, -, -, padded, streams⟩ := inv
  have raised : FaultCodeRaised (raise f s) := by
    obtain rfl | rfl | rfl | rfl := hf <;> simp [FaultCodeRaised, faultCode]
  exact ⟨iff_of_true (faultCode_ne_zero f) rfl, raised, slot, ordered, nofun, nofun, padded,
    streams⟩

/-! ### A completed command keeps each invariant -/

section
variable {i : Instr} {s : State}

/-- A command that completes does so in a running engine, which has no fault code. -/
theorem fcode_eq_zero_of_ok (recorded : FaultCodeRecorded s) (ok : instrOutcome i s = .ok) :
    s.fcode = 0 := by
  obtain ⟨running, -⟩ := instrOutcome_ok.1 ok
  by_contra code
  have halted := (isHalted_eq_true s).2 (.inr (recorded.1 code))
  rw [running] at halted
  cases halted

/-- No completed command ends in FAULT. -/
theorem instrEffect_phase_ne_fault (ok : instrOutcome i s = .ok) :
    (instrEffect i s).phase ≠ .fault := by
  intro fault
  obtain ⟨running, -⟩ := instrOutcome_ok.1 ok
  have was_running : s.phase ≠ .fault := by
    obtain h | h := (isHalted_eq_false s).1 running <;> simp [h]
  obtain ⟨a, b, l, v, rfl⟩ | rfl | rfl :=
    instrEffect_phase_ne (i := i) (s := s) (fault ▸ was_running.symm)
  · rw [instrEffect, beginEffect_phase] at fault
    cases fault
  · cases fault
  · cases fault

theorem instrEffect_faultCodeRecorded (recorded : FaultCodeRecorded s)
    (ok : instrOutcome i s = .ok) : FaultCodeRecorded (instrEffect i s) := by
  have none : (instrEffect i s).fcode = 0 :=
    (instrEffect_fcode i s).trans (fcode_eq_zero_of_ok recorded ok)
  exact iff_of_false (not_not.2 none) (instrEffect_phase_ne_fault ok)

theorem instrEffect_faultCodeRaised (raised : FaultCodeRaised s) :
    FaultCodeRaised (instrEffect i s) := by
  rwa [FaultCodeRaised, instrEffect_fcode]

theorem instrEffect_emptySlotZero (slot : EmptySlotZero s) : EmptySlotZero (instrEffect i s) := by
  cases i with
  | ldkid k => exact fun _ => rfl
  | ldkey k => exact nofun
  | fin => exact fun _ => rfl
  | beginSample a b l v => simpa [EmptySlotZero, instrEffect] using slot
  | sub c e => simpa [EmptySlotZero, instrEffect] using slot
  | _ => exact slot

/-- The pair SUB completes fits the sample, so its positions do not wrap (R142, R146). -/
theorem subEffect_positions {c : BitVec 16} {e : Word} (ordered : PositionsOrdered s)
    (fits : pairEnd c e s ≤ s.slen.toNat) :
    (subEffect c e s).encpos.toNat = s.encpos.toNat + e.toNat ∧
      (subEffect c e s).spos.toNat = s.spos.toNat + c.toNat + e.toNat := by
  obtain ⟨enc_le, -⟩ := ordered
  have slen_lt := s.slen.isLt
  rw [pairEnd] at fits
  rw [subEffect_encpos, subEffect_spos, pairEnd, BitVec.toNat_ofNat, BitVec.toNat_ofNat]
  exact ⟨Nat.mod_eq_of_lt (by omega), Nat.mod_eq_of_lt (by omega)⟩

theorem instrEffect_positionsOrdered (ordered : PositionsOrdered s) (ok : instrOutcome i s = .ok) :
    PositionsOrdered (instrEffect i s) := by
  cases i with
  | beginSample a b l v =>
    rw [PositionsOrdered, instrEffect, beginEffect_encpos, beginEffect_spos, beginEffect_slen]
    cases b <;> simp
  | sub c e =>
    obtain ⟨-, -, fits, -⟩ := instrOutcome_sub_ok.1 ok
    obtain ⟨enc, pos⟩ := subEffect_positions ordered fits
    obtain ⟨enc_le, -⟩ := ordered
    rw [PositionsOrdered, instrEffect, enc, pos, subEffect_slen]
    rw [pairEnd] at fits
    omega
  | _ => exact ordered

theorem instrEffect_sampleHasKey (key : SampleHasKey s) (ok : instrOutcome i s = .ok) :
    SampleHasKey (instrEffect i s) := by
  have not_sample (legal : phaseLegal i s = legalInIdle s) : s.phase ≠ .sample := by
    obtain ⟨-, idle, -⟩ := instrOutcome_ok.1 ok
    rw [legal, legalInIdle_iff] at idle
    simp [idle]
  cases i with
  | nop => exact key
  | ldkid k => exact fun sample => absurd sample (not_sample rfl)
  | ldkey k => exact fun _ => rfl
  | cfg n c k => exact key
  | beginSample a b l v =>
    obtain ⟨-, valid, -⟩ := instrOutcome_begin_ok.1 ok
    exact fun _ => (beginEffect_keyv ..).trans valid
  | sub c e => simpa [SampleHasKey, instrEffect] using key
  | endSample => exact nofun
  | fin => exact nofun

/-- A walk that is entered in its group, or at its start, ends in it (R194, R196). -/
theorem cbcsWalk_patpos_lt (q : Params) (k v : Block) {y z : Byte} (c : Block) {p : BitVec 9}
    (cs : List Block) (hy : y ≠ 0) (hp : p.toNat < y.toNat + z.toNat) :
    (cbcsWalk q k v y z c p cs).patpos.toNat < y.toNat + z.toNat := by
  have pattern (c : Block) (p : BitVec 9) (hp : p.toNat < y.toNat + z.toNat) :
      (cbcsPattern k v y z c p cs).patpos.toNat < y.toNat + z.toNat := by
    induction cs generalizing c p with
    | nil => exact hp
    | cons b bs ih =>
      rw [cbcsPattern]
      split
      · exact ih _ _ (nextPatpos_lt p hy)
      · exact ih _ _ (nextPatpos_lt p hy)
  rw [cbcsWalk, if_neg (by simpa using hy), patternEntryPos]
  split
  · exact pattern _ _ (Nat.lt_add_right _ (crypt_pos hy))
  · exact pattern _ _ hp

theorem rangePatpos_lt (n : Nat) (hy : s.crypt ≠ 0)
    (hp : s.patpos.toNat < s.crypt.toNat + s.skip.toNat) :
    (rangePatpos n s).toNat < s.crypt.toNat + s.skip.toNat := by
  unfold rangePatpos
  cases s.scheme with
  | cenc => exact hp
  | cbcs => exact cbcsWalk_patpos_lt _ _ _ _ _ hy hp

theorem beginEffect_patpos_lt (a b : Bool) (l : Word) (v : List Byte) (hy : s.crypt ≠ 0) :
    (beginEffect a b l v s).patpos.toNat < s.crypt.toNat + s.skip.toNat := by
  have start : (0 : BitVec 9).toNat < s.crypt.toNat + s.skip.toNat :=
    Nat.lt_add_right _ (crypt_pos hy)
  cases b with
  | true => exact start
  | false =>
    rw [beginEffect_whole]
    exact rangePatpos_lt (s := openSample a false l v s) l.toNat hy start

theorem instrEffect_patternInGroup (group : PatternInGroup s) (ok : instrOutcome i s = .ok) :
    PatternInGroup (instrEffect i s) := by
  cases i with
  | cfg n c k =>
    obtain ⟨-, idle, -⟩ := instrOutcome_ok.1 ok
    have still_idle : (instrEffect (.cfg n c k) s).phase = .idle := (legalInIdle_iff s).1 idle
    simp [PatternInGroup, still_idle]
  | beginSample a b l v =>
    intro _ active
    rw [instrEffect, beginEffect_crypt] at active
    rw [instrEffect, beginEffect_crypt, beginEffect_skip]
    exact beginEffect_patpos_lt a b l v active
  | sub c e =>
    intro sample active
    rw [instrEffect, subEffect_phase] at sample
    rw [instrEffect, subEffect_crypt] at active
    rw [instrEffect, subEffect_crypt, subEffect_skip, subEffect_eq]
    exact rangePatpos_lt (s := copyClear c.toNat s) e.toNat active (group sample active)
  | endSample => exact nofun
  | fin => exact nofun
  | _ => exact group

/-- Eight bytes, padded on the right, leave the upper half zero (R147). -/
theorem padIv_short {v : List Byte} (h : v.length = 8) :
    (padIv v).c2 = Quad.zero ∧ (padIv v).c3 = Quad.zero := by
  match v, h with
  | [_, _, _, _, _, _, _, _], _ => exact ⟨rfl, rfl⟩

theorem instrEffect_shortIvPadded (padded : ShortIvPadded s) (wf : i.wf = true) :
    ShortIvPadded (instrEffect i s) := by
  cases i with
  | beginSample a b l v =>
    intro short
    rw [instrEffect, beginEffect_iv16] at short
    subst short
    rw [instrEffect, beginEffect_iv]
    exact padIv_short (beq_iff_eq.1 wf)
  | sub c e => simpa [ShortIvPadded, instrEffect] using padded
  | _ => exact padded

theorem instrEffect_streamsAligned (streams : StreamsAligned s) (fetched : fetch s = .ok i)
    (ok : instrOutcome i s = .ok) : StreamsAligned (instrEffect i s) := by
  obtain ⟨cpc_le, dip_le, out⟩ := streams
  obtain ⟨-, -, -, data⟩ := instrOutcome_ok.1 ok
  have words := words_le_of_fetch fetched
  rw [StreamsAligned, instrEffect_cpc, instrEffect_dip, instrEffect_cmd, instrEffect_din,
    instrEffect_dout, List.length_append, writtenBytes_length ok, out]
  omega

theorem instrEffect_keeps_inv (inv : EngineInv s) (fetched : fetch s = .ok i)
    (ok : instrOutcome i s = .ok) : EngineInv (instrEffect i s) := by
  obtain ⟨recorded, raised, slot, ordered, key, group, padded, streams⟩ := inv
  exact ⟨instrEffect_faultCodeRecorded recorded ok, instrEffect_faultCodeRaised raised,
    instrEffect_emptySlotZero slot, instrEffect_positionsOrdered ordered ok,
    instrEffect_sampleHasKey key ok, instrEffect_patternInGroup group ok,
    instrEffect_shortIvPadded padded (wf_of_fetch fetched),
    instrEffect_streamsAligned streams fetched ok⟩

end

/-! ### Reset and steps (R56, R280) -/

/-- Settles O51: a step waits, takes a fault, or completes a command, and each keeps the
invariants. -/
theorem everyStepKeepsInvariants : Obligations.EveryStepKeepsInvariants := by
  intro s t inv h
  obtain ⟨-, rfl⟩ | ⟨f, fault, rfl⟩ | ⟨i, fetched, ok, -, rfl⟩ := step_cases h
  · exact inv
  · exact raise_keeps_inv (stepOutcome_engineFault fault) inv
  · exact instrEffect_keeps_inv inv fetched ok

/-- Settles O52: every register is zero, so every invariant holds at once. -/
theorem resetMeetsInvariants : Obligations.ResetMeetsInvariants := by
  intro s
  refine ⟨?_, .inl rfl, fun _ => rfl, ?_, nofun, nofun, fun _ => ⟨rfl, rfl⟩, ?_⟩
  · simp [FaultCodeRecorded, resetEngine, State.reset]
  · simp [PositionsOrdered, resetEngine, State.reset]
  · simp [StreamsAligned, resetEngine, State.reset]

/-- Settles O53: the reset is never refused, and with CMD empty the engine waits for a word. -/
theorem resetClearsEverything : Obligations.ResetClearsEverything :=
  fun s => ⟨rfl, rfl, rfl, stepOutcome_of_error (s := resetEngine s) (r := .incomplete) rfl⟩

/-! ### Runs -/

theorem step_nextState (s : State) : step s = .next (nextState s) := by
  rw [step_eq, nextState_eq]

theorem afterSteps_succ (k : Nat) (s : State) :
    afterSteps (k + 1) s = nextState (afterSteps k s) := by
  induction k generalizing s with
  | zero => rfl
  | succ k ih => exact ih (nextState s)

theorem afterSteps_keeps_inv {s : State} (inv : EngineInv s) (k : Nat) :
    EngineInv (afterSteps k s) := by
  induction k with
  | zero => exact inv
  | succ k ih =>
    rw [afterSteps_succ]
    exact everyStepKeepsInvariants _ _ ih (step_nextState _)

/-! ### A sample moves SLEN bytes (R148) -/

/-- The step that opens a sample completes BEGIN, and DIP has advanced to SPOS of the new sample. -/
theorem step_opens_sample {s t : State} (h : step s = .next t) (idle : s.phase = .idle)
    (sample : t.phase = .sample) : t.dip = s.dip + t.spos.toNat := by
  have changed : t.phase ≠ s.phase := by simp [idle, sample]
  obtain ⟨-, rfl⟩ | ⟨f, -, rfl⟩ | ⟨i, -, ok, -, rfl⟩ := step_cases h
  · exact absurd rfl changed
  · cases sample
  · obtain ⟨a, b, l, v, rfl⟩ | rfl | rfl := instrEffect_phase_ne changed
    · rw [instrEffect, beginEffect_dip, beginEffect_spos]
      cases b <;> rfl
    · cases sample
    · cases sample

/-- Inside a sample DIP and SPOS advance together: a command is NOP or a SUB that fits. -/
theorem step_inside_sample {s t : State} (inv : EngineInv s) (h : step s = .next t)
    (was : s.phase = .sample) (is : t.phase = .sample) :
    t.dip + s.spos.toNat = s.dip + t.spos.toNat := by
  obtain ⟨-, -, -, ordered, -⟩ := inv
  obtain ⟨-, rfl⟩ | ⟨f, -, rfl⟩ | ⟨i, -, ok, -, rfl⟩ := step_cases h
  · rfl
  · rfl
  · cases i with
    | beginSample a b l v =>
      obtain ⟨idle, -⟩ := instrOutcome_begin_ok.1 ok
      rw [was] at idle
      cases idle
    | sub c e =>
      obtain ⟨-, -, fits, -⟩ := instrOutcome_sub_ok.1 ok
      obtain ⟨-, pos⟩ := subEffect_positions ordered fits
      rw [instrEffect, subEffect_dip, pos]
      omega
    | _ => rfl

/-- The step that closes a sample completes END, with SPOS at SLEN, and moves no byte. -/
theorem step_closes_sample {s t : State} (h : step s = .next t) (sample : s.phase = .sample)
    (idle : t.phase = .idle) : t.dip = s.dip ∧ t.slen = s.spos := by
  have changed : t.phase ≠ s.phase := by simp [idle, sample]
  obtain ⟨-, rfl⟩ | ⟨f, -, rfl⟩ | ⟨i, -, ok, -, rfl⟩ := step_cases h
  · exact absurd rfl changed
  · cases idle
  · obtain ⟨a, b, l, v, rfl⟩ | rfl | rfl := instrEffect_phase_ne changed
    · rw [instrEffect, beginEffect_phase] at idle
      cases idle
    · obtain ⟨-, complete⟩ := instrOutcome_end_ok.1 ok
      exact ⟨rfl, complete.symm⟩
    · cases idle

/-- While the sample opened by the first step stays open, DIP counts its SPOS bytes. -/
theorem dip_eq_of_open_sample {s : State} (inv : EngineInv s) (idle : s.phase = .idle) (k : Nat)
    (sample : ∀ j, j ≤ k → (afterSteps (j + 1) s).phase = .sample) :
    (afterSteps (k + 1) s).dip = s.dip + (afterSteps (k + 1) s).spos.toNat := by
  induction k with
  | zero => exact step_opens_sample (step_nextState s) idle (sample 0 (Nat.le_refl 0))
  | succ k ih =>
    have before := ih fun j hj => sample j (Nat.le_succ_of_le hj)
    have was := sample k (Nat.le_succ k)
    have is := sample (k + 1) (Nat.le_refl _)
    rw [afterSteps_succ (k + 1)] at is ⊢
    have moved := step_inside_sample (afterSteps_keeps_inv inv (k + 1)) (step_nextState _) was is
    omega

/-- Settles O59: DIP counts SPOS while the sample is open, END closes it with SPOS at SLEN, and DOUT
is as long as DIP throughout. -/
theorem sampleMovesExactlySlenBytes : Obligations.SampleMovesExactlySlenBytes := by
  rintro s _ k inv idle sample rfl closed
  have counted := dip_eq_of_open_sample inv idle k sample
  have inv' := afterSteps_keeps_inv inv (k + 2)
  rw [afterSteps_succ (k + 1)] at closed inv' ⊢
  obtain ⟨dip, slen⟩ := step_closes_sample (step_nextState _) (sample k (Nat.le_refl k)) closed
  have bytes : (nextState (afterSteps (k + 1) s)).dip =
      s.dip + (nextState (afterSteps (k + 1) s)).slen.toNat := by rw [dip, slen, counted]
  obtain ⟨-, -, -, -, -, -, -, -, -, out⟩ := inv
  obtain ⟨-, -, -, -, -, -, -, -, -, out'⟩ := inv'
  exact ⟨bytes, by rw [out, out', bytes]⟩

end Sys2Proof.Machine
end

section
/-! PROOFS. Updates of the state that a command neither sees nor writes: KID (10_state.md R22), and
what the host appends at the tails of CMD and DIN (20_memory.md R81, 70_reset_and_hazards.md R295). -/

namespace Sys2Proof.Machine

/-! ### Commuting with a meaning and with the step -/

/-- The update `u` commutes with the register writes of fault entry and of the sample commands. -/
structure Transparent (u : State → State) : Prop where
  on_raise : ∀ f s, raise f (u s) = u (raise f s)
  on_advance : ∀ n s, advance n (u s) = u (advance n s)
  on_open : ∀ a b l v s, openSample a b l v (u s) = u (openSample a b l v s)
  on_spos : ∀ (w : Word) s, { u s with spos := w } = u { s with spos := w }
  on_pairEnd : ∀ c e s, pairEnd c e (u s) = pairEnd c e s

section
variable {u : State → State} (h : Transparent u)
include h

/-- BEGIN commutes with `u` where the range it makes does. -/
theorem Transparent.on_beginEffect {a b : Bool} {l : Word} {v : List Byte} {s : State}
    (on_range : range l.toNat (u (openSample a b l v s)) = u (range l.toNat (openSample a b l v s))) :
    beginEffect a b l v (u s) = u (beginEffect a b l v s) := by
  unfold beginEffect
  rw [h.on_open]
  dsimp only
  rw [on_range, h.on_spos, ← apply_ite u, h.on_advance]

/-- SUB commutes with `u` where the clear bytes and the range do. -/
theorem Transparent.on_subEffect {c : BitVec 16} {e : Word} {s : State}
    (on_clear : copyClear c.toNat (u s) = u (copyClear c.toNat s))
    (on_range : range e.toNat (u (copyClear c.toNat s)) = u (range e.toNat (copyClear c.toNat s))) :
    subEffect c e (u s) = u (subEffect c e s) := by
  unfold subEffect
  rw [on_clear, h.on_pairEnd]
  dsimp only
  rw [on_range, h.on_spos, h.on_advance]

/-- A command commutes with an update that leaves its outcome alone and commutes with its effect. -/
theorem Transparent.on_exec {i : Instr} {s t : State}
    (outcome : instrOutcome i (u s) = instrOutcome i s)
    (effect : instrOutcome i s = .ok → instrEffect i (u s) = u (instrEffect i s))
    (run : exec i s = .next t) : exec i (u s) = .next (u t) := by
  rw [exec_eq] at run ⊢
  obtain rfl := Host.Outcome.next.inj run
  rw [outcome]
  cases ho : instrOutcome i s with
  | ok => rw [settle_ok, settle_ok, effect ho]
  | fault f => rw [settle_fault, settle_fault, h.on_raise f]
  | _ => rfl

/-- The same for the step, whatever command it fetches. -/
theorem Transparent.on_step {s t : State} (outcome : stepOutcome (u s) = stepOutcome s)
    (effect : ∀ i, fetch s = .ok i → instrOutcome i s = .ok →
      fetch (u s) = .ok i ∧ instrEffect i (u s) = u (instrEffect i s))
    (run : step s = .next t) : step (u s) = .next (u t) := by
  obtain ⟨waits, rfl⟩ | ⟨f, fault, rfl⟩ | ⟨i, fetched, ok, -, rfl⟩ := step_cases run
  · exact step_of_waits (outcome ▸ waits)
  · rw [step_of_fault (outcome.trans fault), h.on_raise]
  · obtain ⟨fetched', commutes⟩ := effect i fetched ok
    have ok' : instrOutcome i (u s) = .ok := by
      rw [← stepOutcome_of_ok fetched', outcome, stepOutcome_of_ok fetched, ok]
    rw [step_of_fetch fetched', exec_of_ok ok', commutes]

end

/-! ### KID (R22) -/

/-- The state with another KID. -/
def withKid (k : Block) (s : State) : State := { s with kid := k }

theorem transparent_withKid (k : Block) : Transparent (withKid k) :=
  ⟨fun _ _ => rfl, fun _ _ => rfl, fun _ _ _ _ _ => rfl, fun _ _ => rfl, fun _ _ _ => rfl⟩

theorem stepOutcome_withKid (k : Block) (s : State) :
    stepOutcome (withKid k s) = stepOutcome s := by
  have fetched : fetch (withKid k s) = fetch s := rfl
  cases h : fetch s with
  | ok i =>
    rw [stepOutcome_of_ok h, stepOutcome_of_ok (fetched.trans h)]
    cases i <;> rfl
  | error r =>
    rw [stepOutcome_of_error h, stepOutcome_of_error (fetched.trans h)]
    rfl

/-- A range does not look at KID. -/
theorem range_withKid (n : Nat) (k : Block) (s : State) :
    range n (withKid k s) = withKid k (range n s) := by
  rw [range_eq, range_eq]
  rfl

theorem instrEffect_withKid {i : Instr} (hi : ∀ k', i ≠ .ldkid k') (k : Block) (s : State) :
    instrEffect i (withKid k s) = withKid k (instrEffect i s) := by
  cases i with
  | ldkid k' => exact absurd rfl (hi k')
  | beginSample a b l v => exact (transparent_withKid k).on_beginEffect (range_withKid _ k _)
  | sub c e => exact (transparent_withKid k).on_subEffect rfl (range_withKid _ k _)
  | _ => rfl

/-- Settles O57: changing KID commutes with every step but LDKID. -/
theorem keyIdIsOnlyATag : Obligations.KeyIdIsOnlyATag := fun s _ k not_ldkid =>
  (transparent_withKid k).on_step (stepOutcome_withKid k s) fun _ fetched _ =>
    ⟨fetched, instrEffect_withKid (fun k' hi => not_ldkid k' (hi ▸ fetched)) k s⟩

/-! ### Appends at the tails (R61, R62, R81) -/

/-- The host has appended `ws` to CMD and `bs` to DIN. -/
def lateAppend (ws : List Word) (bs : List Byte) (s : State) : State :=
  appendCmd ws (appendDin bs s)

theorem transparent_lateAppend (ws : List Word) (bs : List Byte) :
    Transparent (lateAppend ws bs) :=
  ⟨fun _ _ => rfl, fun _ _ => rfl, fun _ _ _ _ _ => rfl, fun _ _ => rfl, fun _ _ _ => rfl⟩

/-- Words that decode go on decoding to the same command when more follow. -/
theorem decode_append_of_ok {xs : List Word} {i : Instr} (h : decode xs = .ok i) (ys : List Word) :
    decode (xs ++ ys) = .ok i := by
  obtain ⟨wf, words⟩ := encodeOfDecode xs i h
  rw [← List.take_append_drop i.words xs, words, List.append_assoc]
  exact decodeOfEncode i _ wf

/-- Words that are rejected by name go on being rejected when more follow: their header is. -/
theorem decode_append_of_error {xs : List Word} {r : Reject} (h : decode xs = .error r)
    (named : r ≠ .incomplete) (ys : List Word) : decode (xs ++ ys) = .error r := by
  cases xs with
  | nil => cases h; exact absurd rfl named
  | cons w p =>
    rw [decode_cons] at h
    rw [List.cons_append, decode_cons]
    cases hw : decodeHeader w with
    | error r' => rw [hw] at h; exact h
    | ok hd =>
      simp only [hw] at h
      split at h
      · cases h; exact absurd rfl named
      · cases h

section
variable (ws : List Word) (bs : List Byte) {s : State}

theorem pendingWords_lateAppend (s : State) :
    pendingWords (lateAppend ws bs s) = pendingWords s ++ ws.drop (s.cpc - s.cmd.length) :=
  List.drop_append

theorem fetch_lateAppend_of_ok {i : Instr} (h : fetch s = .ok i) :
    fetch (lateAppend ws bs s) = .ok i := by
  rw [fetch, pendingWords_lateAppend]
  exact decode_append_of_ok h _

theorem fetch_lateAppend_of_error {r : Reject} (h : fetch s = .error r) (named : r ≠ .incomplete) :
    fetch (lateAppend ws bs s) = .error r := by
  rw [fetch, pendingWords_lateAppend]
  exact decode_append_of_error h named _

/-- A command that does not hold on DIN has the same outcome with more data behind. -/
theorem instrOutcome_lateAppend {i : Instr} (no_hold : instrOutcome i s ≠ .holdDin) :
    instrOutcome i (lateAppend ws bs s) = instrOutcome i s := by
  have legal : phaseLegal i (lateAppend ws bs s) = phaseLegal i s := by cases i <;> rfl
  have checks : checksOf i (lateAppend ws bs s) = checksOf i s := by cases i <;> rfl
  cases ho : instrOutcome i s with
  | ok =>
    obtain ⟨running, legal', pass, data⟩ := instrOutcome_ok.1 ho
    refine instrOutcome_ok.2 ⟨running, legal.trans legal', checks ▸ pass, ?_⟩
    have longer : (lateAppend ws bs s).din.length = s.din.length + bs.length := List.length_append
    have same_dip : (lateAppend ws bs s).dip = s.dip := rfl
    omega
  | fault f =>
    rw [instrOutcome_fault] at ho ⊢
    rw [legal, checks]
    exact ho
  | holdCmd => exact absurd ((instrOutcome_eq i s).symm.trans ho) (judge_ne_holdCmd _ _ _ _)
  | holdDin => exact absurd ho no_hold
  | halted => exact (instrOutcome_halted i _).2 ((instrOutcome_halted i s).1 ho)

theorem stepOutcome_lateAppend (no_holdCmd : stepOutcome s ≠ .holdCmd)
    (no_holdDin : stepOutcome s ≠ .holdDin) :
    stepOutcome (lateAppend ws bs s) = stepOutcome s := by
  cases running : isHalted s with
  | true =>
    rw [stepOutcome_of_isHalted running, stepOutcome_of_isHalted (s := lateAppend ws bs s) running]
  | false =>
    cases h : fetch s with
    | ok i =>
      rw [stepOutcome_of_ok h] at no_holdDin
      rw [stepOutcome_of_ok h, stepOutcome_of_ok (fetch_lateAppend_of_ok ws bs h)]
      exact instrOutcome_lateAppend ws bs no_holdDin
    | error r =>
      have named : r ≠ .incomplete := by
        rintro rfl
        exact no_holdCmd ((stepOutcome_of_error h).trans (by simp [rejectOutcome, running]))
      rw [stepOutcome_of_error h, stepOutcome_of_error (fetch_lateAppend_of_error ws bs h named)]
      rfl

/-- Bytes that have arrived are read the same with more behind them (R62). -/
theorem dinBytes_lateAppend {n : Nat} (data : n = 0 ∨ s.dip + n ≤ s.din.length) :
    dinBytes n (lateAppend ws bs s) = dinBytes n s := by
  change ((s.din ++ bs).drop s.dip).take n = (s.din.drop s.dip).take n
  obtain rfl | arrived := data
  · rfl
  · rw [List.drop_append_of_le_length (by omega),
      List.take_append_of_le_length (by rw [List.length_drop]; omega)]

theorem copyClear_lateAppend {n : Nat} (data : n = 0 ∨ s.dip + n ≤ s.din.length) :
    copyClear n (lateAppend ws bs s) = lateAppend ws bs (copyClear n s) := by
  unfold copyClear
  rw [dinBytes_lateAppend ws bs data]
  rfl

/-- A range whose data has arrived reads, writes and leaves the same. -/
theorem range_lateAppend {n : Nat} (data : n = 0 ∨ s.dip + n ≤ s.din.length) :
    range n (lateAppend ws bs s) = lateAppend ws bs (range n s) := by
  have read := dinBytes_lateAppend ws bs data
  cases hs : s.scheme with
  | cenc =>
    rw [range_cenc hs, range_cenc (s := lateAppend ws bs s) hs, cencPlaintext, read]
    rfl
  | cbcs =>
    rw [range_cbcs hs, range_cbcs (s := lateAppend ws bs s) hs, cbcsRangeWalk, read]
    rfl

theorem instrEffect_lateAppend {i : Instr} (ok : instrOutcome i s = .ok) :
    instrEffect i (lateAppend ws bs s) = lateAppend ws bs (instrEffect i s) := by
  cases i with
  | beginSample a b l v =>
    cases b with
    | true => rfl
    | false =>
      obtain ⟨-, -, -, data⟩ := instrOutcome_begin_ok.1 ok
      exact (transparent_lateAppend ws bs).on_beginEffect
        (range_lateAppend ws bs (s := openSample a false l v s) data)
  | sub c e =>
    obtain ⟨-, -, -, -, data⟩ := instrOutcome_sub_ok.1 ok
    have enc_data : e.toNat = 0 ∨
        (copyClear c.toNat s).dip + e.toNat ≤ (copyClear c.toNat s).din.length := by
      rw [copyClear_dip, copyClear_din]
      omega
    exact (transparent_lateAppend ws bs).on_subEffect (copyClear_lateAppend ws bs (by omega))
      (range_lateAppend ws bs enc_data)
  | _ => rfl

/-- One step that does not hold commutes with the appends. -/
theorem nextState_lateAppend (no_holdCmd : stepOutcome s ≠ .holdCmd)
    (no_holdDin : stepOutcome s ≠ .holdDin) :
    nextState (lateAppend ws bs s) = lateAppend ws bs (nextState s) := by
  have commutes := (transparent_lateAppend ws bs).on_step
    (stepOutcome_lateAppend ws bs no_holdCmd no_holdDin)
    (fun _ fetched ok => ⟨fetch_lateAppend_of_ok ws bs fetched, instrEffect_lateAppend ws bs ok⟩)
    (step_nextState s)
  exact Host.Outcome.next.inj ((step_nextState _).symm.trans commutes)

end

/-- Settles O60: by induction on the number of steps, each of which commutes with the appends. -/
theorem lateAppendsChangeNoResult : Obligations.LateAppendsChangeNoResult := by
  intro k s ws bs no_hold
  change afterSteps k (lateAppend ws bs s) = lateAppend ws bs (afterSteps k s)
  induction k with
  | zero => rfl
  | succ k ih =>
    obtain ⟨no_holdCmd, no_holdDin⟩ := no_hold k (Nat.lt_succ_self k)
    rw [afterSteps_succ, afterSteps_succ, ih fun j hj => no_hold j (Nat.lt_succ_of_lt hj),
      nextState_lateAppend ws bs no_holdCmd no_holdDin]

end Sys2Proof.Machine
end

section
/-! PROOFS. The CENC path (42_cenc_ctr.md): the counter block as a number (R170, R176), the keystream
byte by byte (R171 to R173, R178), the commands that use it (R141, R142), and CRYPT and SKIP (R177).
Counter mode and AES as the spec writes them (notes/assumptions/6.md). -/

namespace Sys2Proof.Machine

/-! ### Big-endian numbers (R7) -/

theorem beNat_append (xs ys : List Byte) :
    beNat (xs ++ ys) = beNat xs * 256 ^ ys.length + beNat ys := by
  induction xs with
  | nil => simp [beNat]
  | cons x xs ih =>
    simp only [List.cons_append, beNat, ih, List.length_append, Nat.pow_add]
    ring

theorem be64_toNat (hi lo : Quad) : (be64 hi lo).toNat = beNat (hi.toList ++ lo.toList) := by
  rw [be64, toNat_append_add, wordOfQuad_toNat, wordOfQuad_toNat, beNat_append, quad_toList_length]
  norm_num

/-- The upper and the lower half of a block's number. -/
theorem beNat_halves (b : Block) :
    beNat b.toList = (be64 b.c0 b.c1).toNat * 2 ^ 64 + (be64 b.c2 b.c3).toNat := by
  have halves : b.toList = (b.c0.toList ++ b.c1.toList) ++ (b.c2.toList ++ b.c3.toList) := by
    simp [Block.toList, List.append_assoc]
  rw [halves, beNat_append, be64_toNat, be64_toNat, List.length_append, quad_toList_length,
    quad_toList_length]
  norm_num

theorem beNat_upper (b : Block) : beNat (b.toList.take 8) = (be64 b.c0 b.c1).toNat :=
  (be64_toNat b.c0 b.c1).symm

theorem beNat_lower (b : Block) : beNat (b.toList.drop 8) = (be64 b.c2 b.c3).toNat :=
  (be64_toNat b.c2 b.c3).symm

theorem be128_toNat (b : Block) : (be128 b).toNat = beNat b.toList := by
  rw [be128, toNat_append_add, beNat_halves]

/-- The two words of a 64-bit number carry it. -/
theorem be64_words (n : BitVec 64) :
    be64 (quadOfWord (n.extractLsb' 32 32)) (quadOfWord (n.extractLsb' 0 32)) = n := by
  rw [be64, wordOfQuad_quadOfWord, wordOfQuad_quadOfWord]
  exact BitVec.extractLsb'_append_extractLsb' (x := n) (len := 32) (w := 32)

/-- The four words of a 128-bit number carry it. -/
theorem be128_toBe128 (n : BitVec 128) : be128 (toBe128 n) = n := by
  simp only [be128, be64, toBe128, wordOfQuad_quadOfWord]
  rw [BitVec.extractLsb'_append_extractLsb'_eq_extractLsb' (start₁ := 64) (len₁ := 32) rfl,
    BitVec.extractLsb'_append_extractLsb'_eq_extractLsb' (start₁ := 0) (len₁ := 32) rfl]
  exact BitVec.extractLsb'_append_extractLsb' (x := n) (len := 64) (w := 64)

/-- The number of a block gives the block back. -/
theorem toBe128_be128 (b : Block) : toBe128 (be128 b) = b := by
  simp (disch := decide) only [toBe128, be128, be64, extract_append_hi, extract_append_lo,
    Nat.reduceSub, BitVec.extractLsb'_eq_self, quadOfWord_wordOfQuad]
  simp only [Nat.reduceAdd, Nat.reduceSub, BitVec.extractLsb'_eq_self, quadOfWord_wordOfQuad]

theorem block_eq_iff_beNat (a b : Block) : a = b ↔ beNat a.toList = beNat b.toList := by
  refine ⟨fun h => h ▸ rfl, fun h => ?_⟩
  rw [← be128_toNat, ← be128_toNat] at h
  rw [← toBe128_be128 a, BitVec.eq_of_toNat_eq h, toBe128_be128]

/-! ### The counter block (R170, R176) -/

section
variable (iv : Block) (b : Nat)

/-- With 64 carry bits the upper half is the IV's. -/
theorem ctrBlk_bits64_upper : (ctrBlk .bits64 iv b).toList.take 8 = iv.toList.take 8 := rfl

theorem ctrBlk_bits64_lower :
    beNat ((ctrBlk .bits64 iv b).toList.drop 8) = (beNat (iv.toList.drop 8) + b) % 2 ^ 64 := by
  rw [beNat_lower, beNat_lower]
  simp only [ctrBlk, be64_words, BitVec.toNat_add, BitVec.toNat_ofNat]
  omega

theorem ctrBlk_bits128 : beNat (ctrBlk .bits128 iv b).toList = (beNat iv.toList + b) % 2 ^ 128 := by
  rw [← be128_toNat, ← be128_toNat]
  simp only [ctrBlk, be128_toBe128, BitVec.toNat_add, BitVec.toNat_ofNat]
  omega

theorem beNat_lower_lt : beNat (iv.toList.drop 8) < 2 ^ 64 := by
  rw [beNat_lower]
  exact (be64 iv.c2 iv.c3).isLt

theorem beNat_upper_lt : beNat (iv.toList.take 8) < 2 ^ 64 := by
  rw [beNat_upper]
  exact (be64 iv.c0 iv.c1).isLt

theorem beNat_eq_halves :
    beNat iv.toList = beNat (iv.toList.take 8) * 2 ^ 64 + beNat (iv.toList.drop 8) := by
  rw [beNat_upper, beNat_lower, beNat_halves]

/-- With 64 carry bits the whole block as a number. -/
theorem ctrBlk_bits64 : beNat (ctrBlk .bits64 iv b).toList =
    beNat (iv.toList.take 8) * 2 ^ 64 + (beNat (iv.toList.drop 8) + b) % 2 ^ 64 := by
  rw [beNat_eq_halves, ctrBlk_bits64_upper, ctrBlk_bits64_lower]

/-- The widths agree exactly while the low half does not overflow: a carry out of it changes the upper
half with 128 bits and is lost with 64. -/
theorem ctrBlk_widths_eq_iff (hb : b < 2 ^ 64) :
    ctrBlk .bits64 iv b = ctrBlk .bits128 iv b ↔ beNat (iv.toList.drop 8) + b < 2 ^ 64 := by
  rw [block_eq_iff_beNat, ctrBlk_bits64, ctrBlk_bits128, beNat_eq_halves iv]
  have upper := beNat_upper_lt iv
  have lower := beNat_lower_lt iv
  omega

end

/-- Both widths leave a zero index alone. -/
theorem ctrBlk_zero (carry : CarryBits) (iv : Block) : ctrBlk carry iv 0 = iv := by
  have upper := beNat_upper_lt iv
  have lower := beNat_lower_lt iv
  have halves := beNat_eq_halves iv
  rw [block_eq_iff_beNat]
  cases carry with
  | bits64 => rw [ctrBlk_bits64]; omega
  | bits128 => rw [ctrBlk_bits128]; omega

/-- A zero low half holds the index as it is, for both widths. -/
theorem ctrBlk_of_zero_lower (carry : CarryBits) {iv : Block} {b : Nat} (h2 : iv.c2 = Quad.zero)
    (h3 : iv.c3 = Quad.zero) (hb : b < 2 ^ 64) :
    (ctrBlk carry iv b).toList.take 8 = iv.toList.take 8 ∧
      beNat ((ctrBlk carry iv b).toList.drop 8) = b := by
  have zero : beNat (iv.toList.drop 8) = 0 := by
    rw [beNat_lower, h2, h3]
    rfl
  have same : ctrBlk carry iv b = ctrBlk .bits64 iv b := by
    cases carry with
    | bits64 => rfl
    | bits128 => exact ((ctrBlk_widths_eq_iff iv b hb).2 (by omega)).symm
  rw [same, ctrBlk_bits64_lower, zero]
  exact ⟨ctrBlk_bits64_upper iv b, by omega⟩

/-- Settles O33. -/
theorem counterBlockIsIvPlusIndex : Obligations.CounterBlockIsIvPlusIndex :=
  fun iv b => ⟨⟨ctrBlk_bits64_upper iv b, ctrBlk_bits64_lower iv b⟩, ctrBlk_bits128 iv b,
    ctrBlk_zero .bits64 iv, ctrBlk_zero .bits128 iv,
    fun h2 h3 hb carry => ctrBlk_of_zero_lower carry h2 h3 hb⟩

/-- Settles O34. -/
theorem carryWidthsDifferExactlyOnOverflow : Obligations.CarryWidthsDifferExactlyOnOverflow :=
  fun iv b hb => ctrBlk_widths_eq_iff iv b (by omega)

/-! ### The keystream byte by byte (R171 to R173, R178) -/

section
variable (carry : CarryBits) (key iv : Block)

/-- Byte `j` of consecutive keystream blocks lies in block `j div 16`. -/
theorem keystreamBlocks_getD {m b j : Nat} (hj : j < 16 * m) :
    (keystreamBlocks carry key iv b m).getD j 0 = ksByte carry key iv (16 * b + j) := by
  induction m generalizing b j with
  | zero => omega
  | succ m ih =>
    have first_length : (keystreamBlock carry key iv b).toList.length = 16 := rfl
    rw [keystreamBlocks]
    by_cases inside : j < 16
    · rw [List.getD_append _ _ _ _ (first_length ▸ inside), ksByte, keystreamBlock,
        show (16 * b + j) / 16 = b by omega, show (16 * b + j) % 16 = j by omega]
    · rw [List.getD_append_right _ _ _ _ (by omega), first_length, ih (by omega)]
      congr 1
      omega

/-- Byte `i` of the keystream from position `e` on is `KS[e + i]` (R171). -/
theorem keystream_getD {e n i : Nat} (hi : i < n) :
    (keystream carry key iv e n).getD i 0 = ksByte carry key iv (e + i) := by
  have position : e + i = 16 * (e / 16) + (e % 16 + i) := by omega
  rw [position, ← keystreamBlocks_getD carry key iv (m := (e % 16 + n + 15) / 16) (by omega)]
  simp [keystream, List.getD_eq_getElem?_getD, List.getElem?_drop, hi]

/-- The block-wise range is the rule's byte-by-byte formula (R172). -/
theorem cencRange_eq_xorKeystream (e : Nat) (c : List Byte) :
    cencRange carry key iv e c = xorKeystream carry key iv e c := by
  refine List.ext_getElem (by simp [cencRange_length, xorKeystream]) fun i hi _ => ?_
  rw [cencRange_length] at hi
  have ks := keystream_getD carry key iv (e := e) hi
  rw [List.getD_eq_getElem _ _ (by rwa [keystream_length])] at ks
  simp [cencRange, xorKeystream, ks]

/-- Decrypting a concatenation continues at the position where its first part ended (R173). -/
theorem xorKeystream_append (e : Nat) (c d : List Byte) :
    xorKeystream carry key iv e (c ++ d) =
      xorKeystream carry key iv e c ++ xorKeystream carry key iv (e + c.length) d := by
  simp only [xorKeystream, List.mapIdx_append, Nat.add_assoc, Nat.add_comm c.length]

/-- Xoring with the same keystream bytes again gives the bytes back (R178). -/
theorem xorKeystream_xorKeystream (e : Nat) (c : List Byte) :
    xorKeystream carry key iv e (xorKeystream carry key iv e c) = c := by
  refine List.ext_getElem (by simp [xorKeystream]) fun i _ _ => ?_
  simp [xorKeystream]

end

/-! ### The range in the engine -/

/-- What a CENC range writes (R146, R172). -/
theorem rangeBytes_cenc {s : State} (h : s.scheme = .cenc) (n : Nat) :
    rangeBytes n s =
      xorKeystream s.params.ctrCarryBits s.key s.iv s.encpos.toNat (dinBytes n s) := by
  rw [rangeBytes, h]
  exact cencRange_eq_xorKeystream ..

theorem rangeChain_cenc {s : State} (h : s.scheme = .cenc) (n : Nat) :
    rangeChain n s = s.chain := by
  rw [rangeChain, h]

theorem rangePatpos_cenc {s : State} (h : s.scheme = .cenc) (n : Nat) :
    rangePatpos n s = s.patpos := by
  rw [rangePatpos, h]

theorem range_dout_cenc {s : State} (h : s.scheme = .cenc) (n : Nat) :
    (range n s).dout = s.dout ++
      xorKeystream s.params.ctrCarryBits s.key s.iv s.encpos.toNat (dinBytes n s) := by
  rw [range_eq, rangeBytes_cenc h]

/-- ENCPOS advances by the length of the range, as a number where it does not wrap (R146). -/
theorem range_encpos_toNat {s : State} {n : Nat} (h : s.encpos.toNat + n < 2 ^ 32) :
    (range n s).encpos.toNat = s.encpos.toNat + n := by
  rw [range_encpos, BitVec.toNat_ofNat, Nat.mod_eq_of_lt h]

/-- Settles O35. -/
theorem cencRangeIsBytewiseXor : Obligations.CencRangeIsBytewiseXor :=
  ⟨fun carry key iv e c => ⟨cencRange_eq_xorKeystream carry key iv e c, rfl⟩,
    fun n _ cenc fits => ⟨range_encpos_toNat fits, range_dout_cenc cenc n⟩⟩

/-- Settles O36: the second range finds the ENCPOS the first one left, and clear bytes do not move
it. -/
theorem keystreamContinuesAcrossRanges : Obligations.KeystreamContinuesAcrossRanges := by
  refine ⟨fun carry key iv e c d => ?_, fun s n c m cenc fits => ?_⟩
  · simp only [cencRange_eq_xorKeystream, xorKeystream_append]
  · have still_cenc : (copyClear c (range n s)).scheme = .cenc := (range_scheme n s).trans cenc
    rw [range_dout_cenc still_cenc, copyClear_dout, range_dout_cenc cenc, copyClear_params,
      copyClear_key, copyClear_iv, copyClear_encpos, range_params, range_key, range_iv,
      range_encpos_toNat fits]

/-- Settles O37. -/
theorem cencRangeIsItsOwnInverse : Obligations.CencRangeIsItsOwnInverse := by
  intro carry key iv e c
  rw [cencRange_eq_xorKeystream, cencRange_eq_xorKeystream, xorKeystream_xorKeystream]

/-! ### CRYPT and SKIP in CENC (R177) -/

/-- The state with other block counts. -/
def withCounts (c k : Byte) (s : State) : State := { s with crypt := c, skip := k }

theorem transparent_withCounts (c k : Byte) : Transparent (withCounts c k) :=
  ⟨fun _ _ => rfl, fun _ _ => rfl, fun _ _ _ _ _ => rfl, fun _ _ => rfl, fun _ _ _ => rfl⟩

/-- A CENC range does not look at CRYPT and SKIP. -/
theorem range_withCounts {s : State} (cenc : s.scheme = .cenc) (n : Nat) (c k : Byte) :
    range n (withCounts c k s) = withCounts c k (range n s) := by
  rw [range_cenc cenc, range_cenc (s := withCounts c k s) cenc]
  rfl

theorem instrEffect_withCounts {i : Instr} (not_cfg : ∀ n x y, i ≠ .cfg n x y) {s : State}
    (cenc : s.scheme = .cenc) (c k : Byte) :
    instrEffect i (withCounts c k s) = withCounts c k (instrEffect i s) := by
  cases i with
  | cfg n x y => exact absurd rfl (not_cfg n x y)
  | beginSample a b l v =>
    exact (transparent_withCounts c k).on_beginEffect
      (range_withCounts (s := openSample a b l v s) cenc _ c k)
  | sub x e =>
    exact (transparent_withCounts c k).on_subEffect rfl
      (range_withCounts (s := copyClear x.toNat s) cenc _ c k)
  | _ => rfl

theorem instrOutcome_withCounts (i : Instr) (c k : Byte) (s : State) :
    instrOutcome i (withCounts c k s) = instrOutcome i s := by
  cases i <;> rfl

/-- Settles O38: changing the counts commutes with every command but CFG, and a range's bytes do not
depend on them. -/
theorem cencIgnoresPatternRegisters : Obligations.CencIgnoresPatternRegisters := by
  refine ⟨fun s t i c k cenc not_cfg h => ?_, fun s n c k cenc => ?_, fun s c k idle => ?_⟩
  · exact (transparent_withCounts c k).on_exec (instrOutcome_withCounts i c k s)
      (fun _ => instrEffect_withCounts not_cfg cenc c k) h
  · exact range_dout_cenc (s := withCounts c k s) cenc n
  · rw [exec_of_ok (i := .cfg .cens c k) (instrOutcome_ok_of_idle rfl rfl rfl idle),
      exec_of_ok (i := .cfg .cenc 0 0) (instrOutcome_ok_of_idle rfl rfl rfl idle)]
    rfl

/-! ### BEGIN and SUB in CENC (R141, R142, R149) -/

/-- A sample of legal length whose data has arrived is opened and decrypted as a whole. -/
theorem instrOutcome_begin_whole_ok (a : Bool) {l : Word} (v : List Byte) {s : State}
    (idle : s.phase = .idle) (key : s.keyv = true) (aligned : s.scheme = .cenc ∨ l.toNat % 16 = 0)
    (data : s.dip + l.toNat ≤ s.din.length) :
    instrOutcome (.beginSample a false l v) s = .ok :=
  instrOutcome_begin_ok.2 ⟨idle, key, .inr aligned, .inr data⟩

/-- Settles O25: the range of the opened sample starts at ENCPOS 0. -/
theorem beginWholeCencSample : Obligations.BeginWholeCencSample := by
  intro s a l v idle key cenc data
  have opened_cenc : (openSample a false l v s).scheme = .cenc := cenc
  rw [exec_of_ok (instrOutcome_begin_whole_ok a v idle key (.inl cenc) data), instrEffect,
    beginEffect_whole, rangeBytes_cenc opened_cenc, rangeChain_cenc opened_cenc,
    rangePatpos_cenc opened_cenc]
  rfl

/-- SPOS after a pair, added up in 32 bits. -/
theorem ofNat_pairEnd (c : BitVec 16) (e : Word) (s : State) :
    BitVec.ofNat 32 (pairEnd c e s) = s.spos + c.setWidth 32 + e := by
  apply BitVec.eq_of_toNat_eq
  simp [pairEnd]

theorem ofNat_encpos_add (e : Word) (s : State) :
    BitVec.ofNat 32 (s.encpos.toNat + e.toNat) = s.encpos + e := by
  apply BitVec.eq_of_toNat_eq
  simp

/-- Settles O27: the range after the clear bytes starts at the ENCPOS it finds. -/
theorem subInCenc : Obligations.SubInCenc := by
  intro s c e sample list cenc fits data
  have copied_cenc : (copyClear c.toNat s).scheme = .cenc := cenc
  rw [exec_of_ok (instrOutcome_sub_ok.2 ⟨sample, list, fits, .inl cenc, .inr data⟩), instrEffect,
    subEffect_eq, rangeBytes_cenc copied_cenc, rangeChain_cenc copied_cenc,
    rangePatpos_cenc copied_cenc, ofNat_pairEnd, ofNat_encpos_add, Nat.add_assoc]
  rfl

end Sys2Proof.Machine
end

section
/-! PROOFS. AES-128 (44_aes128_block.md) as the spec writes it (notes/assumptions/6.md): the field
(R210), the tables (R215, R216), the key expansion (R222), the round transformations (R223, R224), and
the two ciphers as inverses of each other (R228). -/

namespace Sys2Proof.Machine

/-! ### The field (R210) -/

/-- Settles O43: `gmul` adds up the powers of x that the constant has, as each formula does. -/
theorem fieldMultiplications : Obligations.FieldMultiplications := by
  refine ⟨fun a => ⟨?_, ?_, ?_, ?_, ?_, ?_, ?_⟩, rfl, rfl, rfl⟩
  all_goals simp [gmul, gmulBits, mul02, mul03, mul09, mul0b, mul0d, mul0e]
  all_goals ac_rfl

/-- Multiplication by x distributes over addition: the reduction is added once for each overflow. -/
theorem xtime_xor (a b : Byte) : xtime (a ^^^ b) = xtime a ^^^ xtime b := by
  unfold xtime
  rw [BitVec.getLsbD_xor, BitVec.shiftLeft_xor_distrib]
  cases a.getLsbD 7 <;> cases b.getLsbD 7 <;> simp [BitVec.xor_assoc]
  ac_rfl

theorem mul02_xor (a b : Byte) : mul02 (a ^^^ b) = mul02 a ^^^ mul02 b := xtime_xor a b

theorem mul03_xor (a b : Byte) : mul03 (a ^^^ b) = mul03 a ^^^ mul03 b := by
  simp only [mul03, xtime_xor]; ac_rfl

theorem mul09_xor (a b : Byte) : mul09 (a ^^^ b) = mul09 a ^^^ mul09 b := by
  simp only [mul09, xtime_xor]; ac_rfl

theorem mul0b_xor (a b : Byte) : mul0b (a ^^^ b) = mul0b a ^^^ mul0b b := by
  simp only [mul0b, xtime_xor]; ac_rfl

theorem mul0d_xor (a b : Byte) : mul0d (a ^^^ b) = mul0d a ^^^ mul0d b := by
  simp only [mul0d, xtime_xor]; ac_rfl

theorem mul0e_xor (a b : Byte) : mul0e (a ^^^ b) = mul0e a ^^^ mul0e b := by
  simp only [mul0e, xtime_xor]; ac_rfl

theorem xor_left_comm (a b c : Byte) : a ^^^ (b ^^^ c) = b ^^^ (a ^^^ c) := by ac_rfl

/-! ### The column transformations (R223, R224)

Both matrices are circulant, so one row at all four rotations gives the column. -/

/-- A row of the matrix of MixColumns. -/
def mixRow (a b c d : Byte) : Byte := mul02 a ^^^ mul03 b ^^^ c ^^^ d

/-- A row of the matrix of InvMixColumns. -/
def invMixRow (a b c d : Byte) : Byte := mul0e a ^^^ mul0b b ^^^ mul0d c ^^^ mul09 d

theorem mixColumn_eq (q : Quad) :
    mixColumn q = ⟨mixRow q.r0 q.r1 q.r2 q.r3, mixRow q.r1 q.r2 q.r3 q.r0,
      mixRow q.r2 q.r3 q.r0 q.r1, mixRow q.r3 q.r0 q.r1 q.r2⟩ := by
  simp only [mixColumn, mixRow, Quad.mk.injEq]
  exact ⟨trivial, by ac_rfl, by ac_rfl, by ac_rfl⟩

theorem invMixColumn_eq (q : Quad) :
    invMixColumn q = ⟨invMixRow q.r0 q.r1 q.r2 q.r3, invMixRow q.r1 q.r2 q.r3 q.r0,
      invMixRow q.r2 q.r3 q.r0 q.r1, invMixRow q.r3 q.r0 q.r1 q.r2⟩ := by
  simp only [invMixColumn, invMixRow, Quad.mk.injEq]
  exact ⟨trivial, by ac_rfl, by ac_rfl, by ac_rfl⟩

/-- The first row of the product of the two matrices, on one byte at a time: 01, 00, 00, 00. -/
theorem invMix_mix_coefficients (a : Byte) :
    mul0e (mul02 a) ^^^ mul0b a ^^^ mul0d a ^^^ mul09 (mul03 a) = a ∧
    mul0e (mul03 a) ^^^ mul0b (mul02 a) ^^^ mul0d a ^^^ mul09 a = 0 ∧
    mul0e a ^^^ mul0b (mul03 a) ^^^ mul0d (mul02 a) ^^^ mul09 a = 0 ∧
    mul0e a ^^^ mul0b a ^^^ mul0d (mul03 a) ^^^ mul09 (mul02 a) = 0 := by
  simp [mul02, mul03, mul09, mul0b, mul0d, mul0e, xtime_xor, BitVec.xor_assoc, BitVec.xor_comm,
    xor_left_comm]

theorem mix_invMix_coefficients (a : Byte) :
    mul02 (mul0e a) ^^^ mul03 (mul09 a) ^^^ mul0d a ^^^ mul0b a = a ∧
    mul02 (mul0b a) ^^^ mul03 (mul0e a) ^^^ mul09 a ^^^ mul0d a = 0 ∧
    mul02 (mul0d a) ^^^ mul03 (mul0b a) ^^^ mul0e a ^^^ mul09 a = 0 ∧
    mul02 (mul09 a) ^^^ mul03 (mul0d a) ^^^ mul0b a ^^^ mul0e a = 0 := by
  simp [mul02, mul03, mul09, mul0b, mul0d, mul0e, xtime_xor, BitVec.xor_assoc, BitVec.xor_comm,
    xor_left_comm]

theorem invMixRow_mixRow (a b c d : Byte) :
    invMixRow (mixRow a b c d) (mixRow b c d a) (mixRow c d a b) (mixRow d a b c) = a := by
  obtain ⟨ha, -, -, -⟩ := invMix_mix_coefficients a
  obtain ⟨-, hb, -, -⟩ := invMix_mix_coefficients b
  obtain ⟨-, -, hc, -⟩ := invMix_mix_coefficients c
  obtain ⟨-, -, -, hd⟩ := invMix_mix_coefficients d
  calc
    _ = (mul0e (mul02 a) ^^^ mul0b a ^^^ mul0d a ^^^ mul09 (mul03 a)) ^^^
        (mul0e (mul03 b) ^^^ mul0b (mul02 b) ^^^ mul0d b ^^^ mul09 b) ^^^
        (mul0e c ^^^ mul0b (mul03 c) ^^^ mul0d (mul02 c) ^^^ mul09 c) ^^^
        (mul0e d ^^^ mul0b d ^^^ mul0d (mul03 d) ^^^ mul09 (mul02 d)) := by
      simp only [invMixRow, mixRow, mul0e_xor, mul0b_xor, mul0d_xor, mul09_xor]
      ac_rfl
    _ = a := by simp [ha, hb, hc, hd]

theorem mixRow_invMixRow (a b c d : Byte) :
    mixRow (invMixRow a b c d) (invMixRow b c d a) (invMixRow c d a b) (invMixRow d a b c) = a := by
  obtain ⟨ha, -, -, -⟩ := mix_invMix_coefficients a
  obtain ⟨-, hb, -, -⟩ := mix_invMix_coefficients b
  obtain ⟨-, -, hc, -⟩ := mix_invMix_coefficients c
  obtain ⟨-, -, -, hd⟩ := mix_invMix_coefficients d
  calc
    _ = (mul02 (mul0e a) ^^^ mul03 (mul09 a) ^^^ mul0d a ^^^ mul0b a) ^^^
        (mul02 (mul0b b) ^^^ mul03 (mul0e b) ^^^ mul09 b ^^^ mul0d b) ^^^
        (mul02 (mul0d c) ^^^ mul03 (mul0b c) ^^^ mul0e c ^^^ mul09 c) ^^^
        (mul02 (mul09 d) ^^^ mul03 (mul0d d) ^^^ mul0b d ^^^ mul0e d) := by
      simp only [invMixRow, mixRow, mul02_xor, mul03_xor]
      ac_rfl
    _ = a := by simp [ha, hb, hc, hd]

theorem invMixColumn_mixColumn (q : Quad) : invMixColumn (mixColumn q) = q := by
  rw [mixColumn_eq, invMixColumn_eq]
  simp only [invMixRow_mixRow]

theorem mixColumn_invMixColumn (q : Quad) : mixColumn (invMixColumn q) = q := by
  rw [invMixColumn_eq, mixColumn_eq]
  simp only [mixRow_invMixRow]

/-! ### The tables (R215, R216) -/

/-- The inverse of `sboxAffine`. -/
def sboxAffineInv (b : Byte) : Byte := rotlByte b 1 ^^^ rotlByte b 3 ^^^ rotlByte b 6 ^^^ 0x05

/-- Undoing the affine map on an entry gives the inverse of its index. -/
theorem sboxAffineInv_sbox : ∀ a : Byte,
    if a = 0 then sboxAffineInv (sbox a) = 0 else gmul a (sboxAffineInv (sbox a)) = 1 := by
  decide

theorem sboxAffine_sboxAffineInv : ∀ b : Byte, sboxAffine (sboxAffineInv b) = b := by decide

theorem invSbox_sbox : ∀ a : Byte, invSbox (sbox a) = a := by decide

theorem sbox_invSbox : ∀ a : Byte, sbox (invSbox a) = a := by decide

/-- Settles O44: the witness is the entry with the affine map undone. -/
theorem sboxIsAffineOfInverse : Obligations.SboxIsAffineOfInverse :=
  fun a => ⟨⟨sboxAffineInv (sbox a), sboxAffineInv_sbox a, (sboxAffine_sboxAffineInv _).symm⟩,
    invSbox_sbox a, sbox_invSbox a⟩

/-! ### Key expansion (R217, R222) -/

theorem roundKeysFrom_length (k : Block) (rcs : List Byte) :
    (roundKeysFrom k rcs).length = rcs.length + 1 := by
  induction rcs generalizing k with
  | nil => rfl
  | cons rc rcs ih => rw [roundKeysFrom, List.length_cons, ih, List.length_cons]

theorem roundKeysFrom_getD_zero (k : Block) (rcs : List Byte) (d : Block) :
    (roundKeysFrom k rcs).getD 0 d = k := by
  cases rcs <;> rfl

/-- Each round key is made from the one before it with the next round constant. -/
theorem roundKeysFrom_getD_succ {k : Block} {rcs : List Byte} {r : Nat} (hr : r < rcs.length)
    (d : Block) : (roundKeysFrom k rcs).getD (r + 1) d =
      nextRoundKey (rcs.getD r 0) ((roundKeysFrom k rcs).getD r d) := by
  induction rcs generalizing k r with
  | nil => cases hr
  | cons rc rcs ih =>
    cases r with
    | zero => exact roundKeysFrom_getD_zero ..
    | succ r => exact ih (Nat.lt_of_succ_lt_succ hr)

/-- `RK(r)` (R222). -/
def roundKey (key : Block) (r : Nat) : Block := (roundKeys key).getD r Block.zero

theorem roundKey_zero (key : Block) : roundKey key 0 = key := rfl

theorem roundKey_succ (key : Block) {r : Nat} (hr : r < 10) :
    roundKey key (r + 1) = nextRoundKey (roundConstant (r + 1)) (roundKey key r) :=
  roundKeysFrom_getD_succ (rcs := roundConstants) hr _

/-- The word of index `4r + j` is column `j` of round key `r`. -/
theorem keyWord_eq (key : Block) (r : Nat) {j : Nat} (hj : j < 4) :
    keyWord key (4 * r + j) = quadOfBytes ((roundKey key r).toList.drop (4 * j)) := by
  rw [keyWord, show (4 * r + j) / 4 = r by omega, show (4 * r + j) % 4 = j by omega, roundKey]

/-- The recurrence of R222 at the word `4(r + 1) + j`. -/
theorem keyWord_recurrence (key : Block) {r j : Nat} (hr : r < 10) (hj : j < 4) :
    keyWord key (4 * (r + 1) + j) = (keyWord key (4 * r + j)).xor
      (if j = 0 then keyCore (keyWord key (4 * r + 3)) (roundConstant (r + 1))
        else keyWord key (4 * (r + 1) + (j - 1))) := by
  rw [keyWord_eq key _ hj, keyWord_eq key _ hj, keyWord_eq key r (j := 3) (by omega),
    keyWord_eq key (r + 1) (j := j - 1) (by omega), roundKey_succ key hr]
  match j, hj with
  | 0, _ => rfl
  | 1, _ => rfl
  | 2, _ => rfl
  | 3, _ => rfl

/-- Settles O45: an index from 4 on is `4(r + 1) + j`. -/
theorem keyExpansionRecurrence : Obligations.KeyExpansionRecurrence := by
  refine ⟨⟨rfl, by decide⟩, fun key => ⟨roundKeysFrom_length key roundConstants, rfl,
    fun i hi => ?_, fun i h4 h44 => ?_⟩⟩
  · have first := keyWord_eq key 0 hi
    rwa [Nat.mul_zero, Nat.zero_add, roundKey_zero] at first
  · obtain ⟨r, j, hr, hj, rfl⟩ : ∃ r j, r < 10 ∧ j < 4 ∧ i = 4 * (r + 1) + j :=
      ⟨i / 4 - 1, i % 4, by omega, by omega, by omega⟩
    rw [keyWord_recurrence key hr hj, show 4 * (r + 1) + j - 4 = 4 * r + j by omega,
      show (4 * (r + 1) + j) % 4 = j by omega, show (4 * (r + 1) + j) / 4 = r + 1 by omega]
    by_cases h0 : j = 0
    · subst h0
      rfl
    · rw [if_neg h0, if_neg h0, show 4 * (r + 1) + j - 1 = 4 * (r + 1) + (j - 1) by omega]

/-! ### The rounds and their inverses (R223 to R227) -/

/-- Settles O46: sixteen bytes, one for each row and column. -/
theorem shiftRowsByIndex : Obligations.ShiftRowsByIndex := by
  intro b r c hr hc
  interval_cases r <;> interval_cases c <;> exact ⟨rfl, rfl⟩

theorem mapColumns_mapColumns {f g : Quad → Quad} (h : ∀ q, f (g q) = q) (s : Block) :
    mapColumns f (mapColumns g s) = s := by
  simp [mapColumns, h]

theorem quadMap_quadMap {f g : Byte → Byte} (h : ∀ a, f (g a) = a) (q : Quad) :
    quadMap f (quadMap g q) = q := by
  simp [quadMap, h]

@[simp] theorem invMixColumns_mixColumns (s : Block) : invMixColumns (mixColumns s) = s :=
  mapColumns_mapColumns invMixColumn_mixColumn s

@[simp] theorem mixColumns_invMixColumns (s : Block) : mixColumns (invMixColumns s) = s :=
  mapColumns_mapColumns mixColumn_invMixColumn s

@[simp] theorem addRoundKey_addRoundKey (s k : Block) : addRoundKey (addRoundKey s k) k = s := by
  simp [addRoundKey, Block.xor, Quad.xor]

/-- SubBytes and ShiftRows of one round. -/
def subShift (s : Block) : Block := shiftRows (subBytes s)

/-- InvShiftRows and InvSubBytes of one inverse round. -/
def invSubShift (s : Block) : Block := invSubBytes (invShiftRows s)

@[simp] theorem invSubShift_subShift (s : Block) : invSubShift (subShift s) = s :=
  mapColumns_mapColumns (quadMap_quadMap invSbox_sbox) s

@[simp] theorem subShift_invSubShift (s : Block) : subShift (invSubShift s) = s := by
  rw [subShift, invSubShift, subBytes, invSubBytes,
    mapColumns_mapColumns (quadMap_quadMap sbox_invSbox)]
  rfl

/-- One of the first nine rounds (R226). -/
def encRound (s k : Block) : Block := addRoundKey (mixColumns (subShift s)) k

/-- One of the first nine inverse rounds (R227). -/
def decRound (s k : Block) : Block := invMixColumns (addRoundKey (invSubShift s) k)

/-- The rounds are a fold of `encRound` and the last round. -/
theorem encRounds_append_singleton (s : Block) (ms : List Block) (k : Block) :
    encRounds s (ms ++ [k]) = addRoundKey (subShift (ms.foldl encRound s)) k := by
  induction ms generalizing s with
  | nil => rfl
  | cons m ms ih =>
    have one : encRounds s (m :: (ms ++ [k])) = encRounds (encRound s m) (ms ++ [k]) := by
      cases ms <;> rfl
    rw [List.cons_append, one, ih, List.foldl_cons]

theorem decRounds_append_singleton (s : Block) (ms : List Block) (k : Block) :
    decRounds s (ms ++ [k]) = addRoundKey (invSubShift (ms.foldl decRound s)) k := by
  induction ms generalizing s with
  | nil => rfl
  | cons m ms ih =>
    have one : decRounds s (m :: (ms ++ [k])) = decRounds (decRound s m) (ms ++ [k]) := by
      cases ms <;> rfl
    rw [List.cons_append, one, ih, List.foldl_cons]

/-- The round keys are the key, the keys of the middle rounds, and the last one. -/
theorem roundKeys_eq (key : Block) : ∃ ms last, roundKeys key = key :: (ms ++ [last]) := by
  have rest_ne_nil : ∀ (k : Block) (rcs : List Byte), roundKeysFrom k rcs ≠ [] := by
    intro k rcs
    cases rcs <;> simp [roundKeysFrom]
  have rest := List.dropLast_append_getLast
    (rest_ne_nil (nextRoundKey 0x01 key) roundConstants.tail)
  exact ⟨_, _, congrArg (key :: ·) rest.symm⟩

section
variable {key last : Block} {ms : List Block} (keys : roundKeys key = key :: (ms ++ [last]))
include keys

theorem aesEnc_eq (b : Block) :
    aesEnc key b = addRoundKey (subShift (ms.foldl encRound (addRoundKey b key))) last := by
  rw [aesEnc, keys]
  exact encRounds_append_singleton _ ms last

theorem aesDec_eq (b : Block) :
    aesDec key b =
      addRoundKey (invSubShift (ms.reverse.foldl decRound (addRoundKey b last))) key := by
  have reversed : (roundKeys key).reverse = last :: (ms.reverse ++ [key]) := by simp [keys]
  rw [aesDec, reversed]
  exact decRounds_append_singleton _ ms.reverse key

end

/-- The inverse rounds, in reverse order, take the rounds back. -/
theorem foldl_decRound_encRound (ms : List Block) (s : Block) :
    ms.reverse.foldl decRound (subShift (ms.foldl encRound s)) = subShift s := by
  induction ms generalizing s with
  | nil => rfl
  | cons m ms ih =>
    rw [List.foldl_cons, List.reverse_cons, List.foldl_append, ih]
    simp [decRound, encRound]

/-- The rounds take the inverse rounds back. -/
theorem foldl_encRound_decRound (ms : List Block) (s : Block) :
    ms.foldl encRound (invSubShift (ms.reverse.foldl decRound s)) = invSubShift s := by
  induction ms generalizing s with
  | nil => rfl
  | cons m ms ih =>
    rw [List.foldl_cons, List.reverse_cons, List.foldl_append, ← ih s]
    simp [decRound, encRound]

@[simp] theorem aesDec_aesEnc (key b : Block) : aesDec key (aesEnc key b) = b := by
  obtain ⟨ms, last, keys⟩ := roundKeys_eq key
  rw [aesDec_eq keys, aesEnc_eq keys, addRoundKey_addRoundKey, foldl_decRound_encRound,
    invSubShift_subShift, addRoundKey_addRoundKey]

@[simp] theorem aesEnc_aesDec (key b : Block) : aesEnc key (aesDec key b) = b := by
  obtain ⟨ms, last, keys⟩ := roundKeys_eq key
  rw [aesEnc_eq keys, aesDec_eq keys, addRoundKey_addRoundKey, foldl_encRound_decRound,
    subShift_invSubShift, addRoundKey_addRoundKey]

/-- Settles O47. -/
theorem aesDecInvertsAesEnc : Obligations.AesDecInvertsAesEnc :=
  fun key b => ⟨aesDec_aesEnc key b, aesEnc_aesDec key b⟩

/-! ### The published examples (R229) -/

/-- Settles O48: the examples are evaluated. -/
theorem aesPublishedExamples : Obligations.AesPublishedExamples :=
  ⟨by decide +kernel, by decide +kernel, by decide +kernel, by decide +kernel⟩

end Sys2Proof.Machine
end

section
/-! PROOFS. The CBCS path (43_cbcs_pattern.md): the walk with the pattern disabled (R193) and active
(R194 to R197), the round trip with the complementary encryption (R202), and the commands that use it
(R141, R142). CBC and AES as the spec writes them (notes/assumptions/6.md). -/

namespace Sys2Proof.Machine

/-! ### The pattern disabled (R193, R197) -/

theorem cbcsWalk_disabled (p : Params) (key iv : Block) (z : Byte) (chain : Block) (pos : BitVec 9)
    (cs : List Block) :
    cbcsWalk p key iv 0 z chain pos cs = cbcsPlain key (plainEntryChain p iv chain) pos cs := rfl

/-- Block `k` of a range whose first block is chained with `first`. -/
def plainChain (first : Block) (cs : List Block) (k : Nat) : Block :=
  if k = 0 then first else cs.getD (k - 1) Block.zero

/-- After one block in front, the blocks behind it are chained with it first. -/
theorem plainChain_cons_succ (first c : Block) (cs : List Block) (k : Nat) :
    plainChain first (c :: cs) (k + 1) = plainChain c cs k := by
  cases k <;> rfl

theorem cbcsPlain_eq (key first : Block) (pos : BitVec 9) (cs : List Block) :
    cbcsPlain key first pos cs =
      ⟨cs.mapIdx (fun k c => (aesDec key c).xor (plainChain first cs k)), cs.getLastD first, pos⟩ := by
  induction cs generalizing first with
  | nil => rfl
  | cons c cs ih =>
    rw [cbcsPlain, ih, List.mapIdx_cons, List.getLastD_cons]
    simp only [plainChain_cons_succ]
    rfl

/-- Settles O39. -/
theorem plainRangeChainsContinuously : Obligations.PlainRangeChainsContinuously := by
  rintro p key iv chain skip pos cs _ rfl
  rw [cbcsWalk_disabled, cbcsPlain_eq]
  rfl

/-! ### The pattern active (R194 to R196) -/

theorem cbcsWalk_active (p : Params) (key iv : Block) {y : Byte} (hy : y ≠ 0) (z : Byte)
    (chain : Block) (pos : BitVec 9) (cs : List Block) :
    cbcsWalk p key iv y z chain pos cs =
      cbcsPattern key iv y z chain (patternEntryPos p pos) cs := by
  rw [cbcsWalk, if_neg (by simpa using hy)]

theorem groupChain_eq (iv chain : Block) (pos : BitVec 9) :
    groupChain iv chain pos = if pos.toNat = 0 then iv else chain := by
  have zero : pos = 0 ↔ pos.toNat = 0 := BitVec.toNat_inj.symm
  simp only [groupChain, beq_iff_eq, zero]

/-- From a skipped block to a decrypted one there is always the start of a group between. -/
theorem group_starts_of_skipped {y g e : Nat} (hy : y ≤ g) (skipped : y ≤ e % g)
    (decrypted : (e + 1) % g < y) : (e + 1) % g = 0 := by
  have in_group : e % g < g := Nat.mod_lt _ (by omega)
  rw [← Nat.mod_add_mod] at decrypted ⊢
  by_cases wraps : e % g + 1 = g
  · rw [wraps, Nat.mod_self]
  · rw [Nat.mod_eq_of_lt (by omega)] at decrypted
    omega

/-- Behind a block `c` the chaining values are those of the walk entered one position on with the
CHAIN that `c` leaves, wherever a block is decrypted. -/
theorem patternChain_cons_succ {y g e : Nat} (hy : y ≤ g) (iv chain c : Block) (cs : List Block)
    (k : Nat) (decrypted : (e + 1 + k) % g < y) :
    patternChain iv chain g e (c :: cs) (k + 1) =
      patternChain iv (if e % g < y then c else chain) g (e + 1) cs k := by
  cases k with
  | zero =>
    by_cases before : e % g < y
    · simp [patternChain, before]
    · have starts := group_starts_of_skipped hy (Nat.le_of_not_lt before) decrypted
      simp [patternChain, starts]
  | succ k => simp [patternChain, Nat.add_assoc, Nat.add_comm 1]

section
variable (key iv : Block) {y : Byte} (z : Byte) (hy : y ≠ 0)
include hy

/-- The walk over one block more: it is decrypted or copied by its position, and a skipped block leaves
CHAIN as it is. -/
theorem cbcsPattern_cons (chain c : Block) (pos : BitVec 9) (cs : List Block) :
    cbcsPattern key iv y z chain pos (c :: cs) =
      Walk.cons (if pos.toNat < y.toNat then (aesDec key c).xor (groupChain iv chain pos) else c)
        (cbcsPattern key iv y z (if pos.toNat < y.toNat then c else chain)
          (nextPatpos y z pos) cs) := by
  rw [cbcsPattern]
  by_cases decrypted : pos.toNat < y.toNat
  · simp only [if_pos decrypted]
    rfl
  · have not_start : pos.toNat ≠ 0 := by
      have := crypt_pos hy
      omega
    simp only [if_neg decrypted, groupChain_eq, if_neg not_start]

/-- PATPOS one block on, counted from the entry position. -/
theorem nextPatpos_toNat_of_mod {pos : BitVec 9} {e : Nat}
    (hpos : pos.toNat = e % (y.toNat + z.toNat)) :
    (nextPatpos y z pos).toNat = (e + 1) % (y.toNat + z.toNat) := by
  rw [nextPatpos_toNat pos hy, hpos, Nat.mod_add_mod]

theorem cbcsPattern_patpos (chain : Block) {pos : BitVec 9} {e : Nat}
    (hpos : pos.toNat = e % (y.toNat + z.toNat)) (cs : List Block) :
    (cbcsPattern key iv y z chain pos cs).patpos.toNat =
      (e + cs.length) % (y.toNat + z.toNat) := by
  induction cs generalizing chain pos e with
  | nil => exact hpos
  | cons c cs ih =>
    rw [cbcsPattern_cons key iv z hy, List.length_cons, ← Nat.add_assoc, Nat.add_right_comm]
    exact ih _ (nextPatpos_toNat_of_mod z hy hpos)

theorem cbcsPattern_chain (chain : Block) {pos : BitVec 9} {e : Nat}
    (hpos : pos.toNat = e % (y.toNat + z.toNat)) (cs : List Block) :
    (cbcsPattern key iv y z chain pos cs).chain =
      patternEndChain chain y (y.toNat + z.toNat) e cs := by
  induction cs generalizing chain pos e with
  | nil => rfl
  | cons c cs ih =>
    rw [cbcsPattern_cons key iv z hy, patternEndChain_cons, ← hpos]
    exact ih _ (nextPatpos_toNat_of_mod z hy hpos)

theorem cbcsPattern_blocks (chain : Block) {pos : BitVec 9} {e : Nat}
    (hpos : pos.toNat = e % (y.toNat + z.toNat)) (cs : List Block) :
    (cbcsPattern key iv y z chain pos cs).blocks = cs.mapIdx (fun k c =>
      if (e + k) % (y.toNat + z.toNat) < y.toNat then
        (aesDec key c).xor (patternChain iv chain (y.toNat + z.toNat) e cs k)
      else c) := by
  induction cs generalizing chain pos e with
  | nil => rfl
  | cons c cs ih =>
    rw [cbcsPattern_cons key iv z hy, List.mapIdx_cons, Walk.cons,
      ih _ (nextPatpos_toNat_of_mod z hy hpos)]
    refine congrArg₂ List.cons ?_ (congrArg (List.mapIdx · cs) ?_)
    · simp [patternChain, groupChain_eq, hpos]
    · funext k d
      rw [show e + (k + 1) = e + 1 + k by omega, hpos]
      split
      · next decrypted =>
        rw [patternChain_cons_succ (Nat.le_add_right ..) iv chain c cs k decrypted]
      · rfl

end

/-- Settles O40: the three parts of the walk, entered at the position PAT_RANGE_RESTART gives. -/
theorem patternRangeDecryptsByPosition : Obligations.PatternRangeDecryptsByPosition := by
  rintro p key iv chain y z pos cs e _ _ hy rfl rfl in_group rfl
  have entry : (patternEntryPos p pos).toNat =
      (if p.patRangeRestart then 0 else pos.toNat) % (y.toNat + z.toNat) := by
    rw [Nat.mod_eq_of_lt in_group, patternEntryPos]
    split <;> rfl
  rw [cbcsWalk_active p key iv hy]
  exact ⟨cbcsPattern_blocks key iv z hy chain entry cs,
    cbcsPattern_patpos key iv z hy chain entry cs, cbcsPattern_chain key iv z hy chain entry cs⟩

/-! ### The OPEN parameters (R196, R197) -/

theorem plainEntryChain_self (p : Params) (iv : Block) : plainEntryChain p iv iv = iv := ite_self _

theorem patternEntryPos_zero (p : Params) : patternEntryPos p 0 = 0 := ite_self _

/-- Settles O41: the first range enters both walks as a restart would. -/
theorem firstRangeIgnoresRestartParameters : Obligations.FirstRangeIgnoresRestartParameters := by
  intro p q key iv y z cs
  simp only [cbcsWalk, plainEntryChain_self, patternEntryPos_zero]

/-! ### The complementary encryption (R202) -/

/-- Decrypting a block that was encrypted with the same chaining value gives the plaintext back. -/
@[simp] theorem cbcPlainBlock_aesEnc (key chain p : Block) :
    cbcPlainBlock key chain (aesEnc key (p.xor chain)) = p := by
  rw [cbcPlainBlock, aesDec_aesEnc]
  exact addRoundKey_addRoundKey p chain

theorem cbcsPlain_cbcsPlainEnc (key chain : Block) (pos : BitVec 9) (ps : List Block) :
    cbcsPlain key chain pos (cbcsPlainEnc key chain pos ps).blocks =
      { cbcsPlainEnc key chain pos ps with blocks := ps } := by
  induction ps generalizing chain with
  | nil => rfl
  | cons p ps ih => simp only [cbcsPlainEnc, Walk.cons, cbcsPlain, cbcPlainBlock_aesEnc, ih]

theorem cbcsPattern_cbcsPatternEnc (key iv : Block) (y z : Byte) (chain : Block) (pos : BitVec 9)
    (ps : List Block) :
    cbcsPattern key iv y z chain pos (cbcsPatternEnc key iv y z chain pos ps).blocks =
      { cbcsPatternEnc key iv y z chain pos ps with blocks := ps } := by
  induction ps generalizing chain pos with
  | nil => rfl
  | cons p ps ih =>
    by_cases decrypted : pos.toNat < y.toNat
    · simp only [cbcsPatternEnc, if_pos decrypted, Walk.cons, cbcsPattern, cbcPlainBlock_aesEnc, ih]
    · simp only [cbcsPatternEnc, if_neg decrypted, Walk.cons, cbcsPattern, ih]

/-- Settles O42: both walks, entered as the encryption was. -/
theorem cbcsWalkUndoesComplementaryEncryption : Obligations.CbcsWalkUndoesComplementaryEncryption := by
  intro p key iv chain y z pos ps
  unfold cbcsWalk cbcsWalkEnc
  split
  · exact cbcsPlain_cbcsPlainEnc ..
  · exact cbcsPattern_cbcsPatternEnc ..

/-! ### BEGIN and SUB in CBCS (R141, R142, R149) -/

/-- The blocks of a range are those of DIN from DIP on (R191). -/
theorem cbcsRangeWalk_eq (n : Nat) (s : State) :
    cbcsRangeWalk n s = cbcsWalk s.params s.key s.iv s.crypt s.skip s.chain s.patpos
      (blocksOf (n / 16) (s.din.drop s.dip)) := by
  rw [cbcsRangeWalk, dinBytes, blocksOf_take _ _ _ (Nat.mul_div_le n 16)]

section
variable {s : State} (cbcs : s.scheme = .cbcs) (n : Nat)
include cbcs

theorem rangeBytes_cbcs : rangeBytes n s = bytesOfBlocks (cbcsRangeWalk n s).blocks := by
  rw [rangeBytes, cbcs]

theorem rangeChain_cbcs : rangeChain n s = (cbcsRangeWalk n s).chain := by
  rw [rangeChain, cbcs]

theorem rangePatpos_cbcs : rangePatpos n s = (cbcsRangeWalk n s).patpos := by
  rw [rangePatpos, cbcs]

end

/-- Settles O26: the range of the opened sample is entered with CHAIN = IV and PATPOS = 0. -/
theorem beginWholeCbcsSample : Obligations.BeginWholeCbcsSample := by
  intro s a l v idle key cbcs aligned data
  have opened_cbcs : (openSample a false l v s).scheme = .cbcs := cbcs
  refine ⟨_, rfl, ?_⟩
  rw [exec_of_ok (instrOutcome_begin_whole_ok a v idle key (.inr aligned) data), instrEffect,
    beginEffect_whole, rangeBytes_cbcs opened_cbcs, rangeChain_cbcs opened_cbcs,
    rangePatpos_cbcs opened_cbcs, cbcsRangeWalk_eq]
  rfl

/-- Settles O28: the range after the clear bytes is entered with the CHAIN and PATPOS it finds. -/
theorem subInCbcs : Obligations.SubInCbcs := by
  intro s c e sample list cbcs fits aligned data
  have copied_cbcs : (copyClear c.toNat s).scheme = .cbcs := cbcs
  refine ⟨_, rfl, ?_⟩
  rw [exec_of_ok (instrOutcome_sub_ok.2 ⟨sample, list, fits, .inr aligned, .inr data⟩), instrEffect,
    subEffect_eq, rangeBytes_cbcs copied_cbcs, rangeChain_cbcs copied_cbcs,
    rangePatpos_cbcs copied_cbcs, cbcsRangeWalk_eq, ofNat_pairEnd, ofNat_encpos_add, Nat.add_assoc]
  rfl

end Sys2Proof.Machine
end
